-- ==== Sys2Proof/Word.lean ====
section
/-! DEFINITION. Word.lean: the widths of the hardware's values (spec/00_scope.md R9, R87) and the type of a memory. -/

namespace Sys2Proof

/-- Every transaction on both buses moves one byte (R87). -/
abbrev Byte := BitVec 8

/-- A CPU-side address (R80). -/
abbrev Addr := BitVec 16

/-- A PPU-side address (R81). -/
abbrev PpuAddr := BitVec 14

/-- A palette entry or a frame-buffer pixel: a 6-bit colour index (R32, R35). -/
abbrev Color := BitVec 6

/-- The layout of `ppu.v` and `ppu.t` (R29, R147). -/
abbrev VramReg := BitVec 15

/-- A memory of `w`-bit locations: (address, value) pairs, addresses strictly rising, no value 0. An address that is
not listed reads 0, the power-on content the spec gives every memory (R510; log 16). At width 8 it is a list of
`Host.Cell`. -/
abbrev Memory (w : Nat) := List (Nat × BitVec w)

/-- The state of an external collaborator (`Core.State`, `Audio.State`, the register record of a further mapper
variant): plain data the CORE never looks inside (R22, R27, R37; logs 6, 7, 8). -/
abbrev Opaque := List Nat

end Sys2Proof
end

