-- ==== Sys2Proof/Config.lean ====
section
/-! DEFINITION. Config.lean: the configuration record `cfg` of spec/00_scope.md R8, and the interfaces of the external
collaborators it names: the instruction core (spec/44_cpu_driver.md R383), the audio device (spec/40_system_bus.md
R190) and a further mapper variant (spec/43_cartridge_mapper.md R340, R364).

Every operation of the model takes the record as an argument, so that a claim may quantify over it; `Config.cfg` is
the record the machine runs with. Its OPEN parameters are opaque constants: nothing can be proved about their value. -/

namespace Sys2Proof

/-! ## Fixed values of R8 -/

namespace Config

/-- PPU cycles per scanline. -/
@[simp] def dotsPerLine : Nat := 341
/-- Scanlines per frame. -/
@[simp] def linesPerFrame : Nat := 262
/-- Where the vertical-blank flag sets: scanline. -/
@[simp] def vblankLine : Nat := 241
/-- Where the vertical-blank flag sets: cycle. -/
@[simp] def vblankDot : Nat := 1
/-- The pre-render scanline. -/
@[simp] def prerenderLine : Nat := 261
/-- Bytes of internal RAM. -/
@[simp] def ramSize : Nat := 0x0800
/-- PPU dots per CPU cycle. -/
@[simp] def ppuPerCpu : Nat := 3
/-- The stall of an OAM transfer started on an even CPU cycle. -/
@[simp] def dmaCyclesEven : Nat := 513
/-- The stall of an OAM transfer started on an odd CPU cycle. -/
@[simp] def dmaCyclesOdd : Nat := 514
/-- Sprites in OAM. -/
@[simp] def oamEntries : Nat := 64
/-- Bytes of OAM: 4 for each entry. -/
@[simp] def oamSize : Nat := 4 * oamEntries
/-- Sprites rendered per scanline. -/
@[simp] def spritesPerLine : Nat := 8
/-- Bytes of one program bank. -/
@[simp] def prgBank : Nat := 16384
/-- Bytes of one graphics bank. -/
@[simp] def chrBank : Nat := 8192
/-- Bytes of the trainer block. -/
@[simp] def trainerSize : Nat := 512

end Config

/-! ## The instruction core (R383) -/

/-- `CoreIn`: the two interrupt lines presented to one core step. -/
structure CoreIn where
  nmi : Bool
  irq : Bool
  deriving DecidableEq, Repr

/-- `Prog`: a finite program over bus requests, ending in the core's new state and its cycle count. The count is
`extra + 1`, so that it is at least 1 by construction (R384 item 1). -/
inductive Prog where
  | done (core : Opaque) (extra : Nat)
  | read (a : Addr) (k : Byte → Prog)
  | write (a : Addr) (d : Byte) (k : Prog)
  deriving Inhabited

/-- What the instruction core supplies (R383). Its step is one of three sequences, chosen by R384 (Machine/Driver.lean,
`coreStep`); each may look at both lines, as `Core.step` may. -/
structure CoreSpec where
  powerOn : Opaque
  /-- The NMI entry sequence (R384 item 2). -/
  nmiEntry : Opaque → CoreIn → Prog
  /-- "The core's own interrupt-disable state permits" (R384 item 3). -/
  irqPermitted : Opaque → Bool
  /-- The IRQ entry sequence (R384 item 3). -/
  irqEntry : Opaque → CoreIn → Prog
  /-- Exactly one instruction (R384 item 4). -/
  instruction : Opaque → CoreIn → Prog
  reset : Opaque → Prog

/-! ## The audio device (R190) -/

/-- What the audio device supplies (R190). `read` takes the state, the address and the open-bus value. -/
structure AudioSpec where
  powerOn : Opaque
  reset : Opaque → Opaque
  read : Opaque → Addr → Byte → Byte × Opaque
  write : Opaque → Addr → Byte → Opaque
  tick : Opaque → Opaque
  irq : Opaque → Bool

/-! ## A further mapper variant (R340, R364) -/

/-- The header's mirroring bit (R36, R161). -/
inductive HeaderMirroring where
  | horizontal
  | vertical
  deriving DecidableEq, Repr

/-- The five mirroring modes (R95). -/
inductive MirrorMode where
  | horizontal
  | vertical
  | singleLower
  | singleUpper
  | fourScreen
  deriving DecidableEq, Repr

/-- The parsed header of a cartridge (R36, R331). -/
structure Header where
  mapperId : Byte
  prgBanks : Byte
  chrBanks : Byte
  mirroring : HeaderMirroring
  battery : Bool
  trainer : Bool
  fourScreen : Bool
  deriving DecidableEq, Repr

/-- What a capability sees: the cartridge only (R340). `regs` is the variant's own register record. -/
structure CartView where
  header : Header
  prgRom : Memory 8
  prgRam : Memory 8
  chr : Memory 8
  chrIsRam : Bool
  regs : Opaque

/-- The five capabilities of a further variant, its initial registers, and its mirroring control if it has one
(R340, R364). A write capability answers the bytes it stores as (offset, byte) pairs, which the machine stores in
`prg_ram`, or in a RAM `chr`, and nowhere else, so that R335 holds whatever the variant does (log 8). The IRQ level and
the mirroring mode are functions of the registers alone (R363, R362). -/
structure VariantSpec where
  init : Opaque
  cpuRead : CartView → Addr → Option Byte × Opaque
  cpuWrite : CartView → Addr → Byte → Opaque × List (Nat × Byte)
  ppuRead : CartView → PpuAddr → Option Byte × Opaque
  ppuWrite : CartView → PpuAddr → Byte → Opaque × List (Nat × Byte)
  irqPending : Option (Opaque → Bool)
  mirroring : Option (Opaque → MirrorMode)

/-! ## The record -/

/-- The open and default parameters of R8. A field without a default value is one R8 gives no default. -/
structure Cfg where
  /-- Frame-buffer width (D29). -/
  fbW : Nat := 256
  /-- Frame-buffer height (D29). -/
  fbH : Nat := 240
  /-- Bytes of nametable RAM (D19). -/
  vramSize : Nat := 4096
  /-- Palette RAM entries (D19). -/
  paletteSize : Nat := 32
  /-- The "fixed cycles-per-second constant" of `exec` (D35). -/
  cpuHz : Nat := 1789773
  /-- Bytes of cartridge work RAM of the reference variants (D31). -/
  prgRamSize : Nat := 8192
  /-- The open-bus latch before anything drove the bus (D7). -/
  openBusInit : Byte := 0x00
  /-- The tag of the running build's snapshot layout (D36, R420). -/
  snapshotVersion : Nat
  /-- Mapper ids with a known variant (D31). -/
  supported : Byte → Bool := fun id => id == 0 || id == 2 || id == 3
  /-- The further variants (R364). -/
  furtherVariant : Byte → Option VariantSpec := fun _ => none
  /-- The palette lookup table (D41). -/
  paletteRgb : Color → BitVec 24
  /-- The instruction core (D3, D34). -/
  core : CoreSpec
  /-- The audio device (D10). -/
  audio : AudioSpec

namespace Config

/-- `Core.power_on` (R383); no value is known (log 6). -/
opaque corePowerOn : Opaque
/-- `Core.step` where an NMI is presented (R383, R384 item 2; log 6). -/
opaque coreNmiEntry : Opaque → CoreIn → Prog
/-- The core's interrupt-disable state permits an IRQ (R384 item 3; log 6). -/
opaque coreIrqPermitted : Opaque → Bool
/-- `Core.step` where a permitted IRQ is presented without an NMI (R383, R384 item 3; log 6). -/
opaque coreIrqEntry : Opaque → CoreIn → Prog
/-- `Core.step` otherwise: one instruction (R383, R384 item 4; log 6). -/
opaque coreInstruction : Opaque → CoreIn → Prog
/-- `Core.reset` (R383, R385); no value is known (log 6). -/
opaque coreReset : Opaque → Prog
/-- `Audio.power_on` (R190; log 7). -/
opaque audioPowerOn : Opaque
/-- `Audio.reset` (R190; log 7). -/
opaque audioReset : Opaque → Opaque
/-- `Audio.read` (R190; log 7). -/
opaque audioRead : Opaque → Addr → Byte → Byte × Opaque
/-- `Audio.write` (R190; log 7). -/
opaque audioWrite : Opaque → Addr → Byte → Opaque
/-- `Audio.tick` (R190; log 7). -/
opaque audioTick : Opaque → Opaque
/-- `Audio.irq` (R190; log 7). -/
opaque audioIrq : Opaque → Bool
/-- The variants a build has beyond the three reference ones (R364; log 8). -/
opaque furtherVariant : Byte → Option VariantSpec
/-- `cfg.CPU_HZ` (R8, D35; log 9). -/
opaque cpuHz : Nat
/-- `cfg.OPEN_BUS_INIT` (R8, D7; log 9). -/
opaque openBusInit : Byte
/-- `cfg.SNAPSHOT_VERSION` (R8, D36; log 9). -/
opaque snapshotVersion : Nat
/-- `cfg.PALETTE_RGB` (R8, D41; log 9). -/
opaque paletteRgb : Color → BitVec 24

/-- The record the machine runs with. The supported ids are the reference population 0, 2, 3 and every id the build
has a further variant for (log 8). -/
def cfg : Cfg where
  cpuHz := cpuHz
  openBusInit := openBusInit
  snapshotVersion := snapshotVersion
  supported := fun id => id == 0 || id == 2 || id == 3 || (furtherVariant id).isSome
  furtherVariant := furtherVariant
  paletteRgb := paletteRgb
  core := { powerOn := corePowerOn, nmiEntry := coreNmiEntry, irqPermitted := coreIrqPermitted
            irqEntry := coreIrqEntry, instruction := coreInstruction, reset := coreReset }
  audio := { powerOn := audioPowerOn, reset := audioReset, read := audioRead, write := audioWrite,
             tick := audioTick, irq := audioIrq }

end Config

end Sys2Proof
end

