-- ==== Sys2Proof/Syntax.lean ====
section
/-! DEFINITION. Syntax.lean: the operations of the hardware (spec/00_scope.md R3), one constructor for each operation of
spec/opcode_table.json. Several rows with one mnemonic are alternative address patterns of one operation
(spec/30_encoding.md R131) and share its constructor. A data byte of a write is an operand, not part of the selector. -/

namespace Sys2Proof

/-- The operations. The comment lines name the six formats of R130. -/
inductive Instr where
  -- CPUBUS: a whole bus transaction (R181, R182); the address is an operand where the selector leaves it free
  | ramRd (a : Addr)
  | ramWr (a : Addr) (d : Byte)
  | ppuRegRdOpen (a : Addr)
  | ppuCtrlWr (a : Addr) (d : Byte)
  | ppuMaskWr (a : Addr) (d : Byte)
  | ppuStatusRd (a : Addr)
  | ppuStatusWr (a : Addr) (d : Byte)
  | oamAddrWr (a : Addr) (d : Byte)
  | oamDataRd (a : Addr)
  | oamDataWr (a : Addr) (d : Byte)
  | ppuScrollWr (a : Addr) (d : Byte)
  | ppuAddrWr (a : Addr) (d : Byte)
  | ppuDataRd (a : Addr)
  | ppuDataWr (a : Addr) (d : Byte)
  | oamDmaRd
  | oamDmaWr (d : Byte)
  | apuRd (a : Addr)
  | apuWr (a : Addr) (d : Byte)
  | joy1Rd
  | joyStrobe (d : Byte)
  | joy2Rd
  | apu4017Wr (d : Byte)
  | ioUnmappedRd (a : Addr)
  | ioUnmappedWr (a : Addr) (d : Byte)
  | cartRd (a : Addr)
  | cartWr (a : Addr) (d : Byte)
  -- PPUBUS (R250, R251)
  | patternRd (a : PpuAddr)
  | patternWr (a : PpuAddr) (d : Byte)
  | paletteRd (a : PpuAddr)
  | paletteWr (a : PpuAddr) (d : Byte)
  | nametableRd (a : PpuAddr)
  | nametableWr (a : PpuAddr) (d : Byte)
  -- DOT (R270)
  | vblSet
  | flagsClr
  | pixel
  | bgShift
  | bgFetchNt
  | bgFetchAt
  | bgFetchLo
  | bgFetchHi
  | bgReload
  | vIncX
  | vIncY
  | vCopyX
  | vCopyY
  | bgDummyNt
  | spLoad
  | spClear
  | posAdvance
  | posSkip
  -- CPUCYC (R381)
  | cpuBurn
  | cpuStep
  | dmaStart
  | dmaWait
  | dmaRead
  | dmaWrite
  -- MAPPER (R340)
  | nromCpuRead (a : Addr)
  | nromCpuWrite (a : Addr) (d : Byte)
  | nromPpuRead (a : PpuAddr)
  | nromPpuWrite (a : PpuAddr) (d : Byte)
  | uxromCpuRead (a : Addr)
  | uxromCpuWrite (a : Addr) (d : Byte)
  | uxromPpuRead (a : PpuAddr)
  | uxromPpuWrite (a : PpuAddr) (d : Byte)
  | cnromCpuRead (a : Addr)
  | cnromCpuWrite (a : Addr) (d : Byte)
  | cnromPpuRead (a : PpuAddr)
  | cnromPpuWrite (a : PpuAddr) (d : Byte)
  | mirrorMode
  | irqPending
  -- HOST (R440); `exec` takes microseconds, a key code is a byte (R444), a storage slot is a byte (R421)
  | hostInit
  | hostDiscard
  | hostExec (microseconds : Nat)
  | hostInsertCart (image : List Byte)
  | hostRemoveCartridge
  | hostReset
  | hostKeyDown (code : Byte)
  | hostKeyUp (code : Byte)
  | hostPadMask
  | hostDisplayInfo
  | hostSaveSnapshot (slot : Byte)
  | hostLoadSnapshot (version : Nat) (slot : Byte)
  deriving DecidableEq, Repr

end Sys2Proof
end

