-- ==== Sys2Proof/WellFormed.lean ====
section
/-! DEFINITION. WellFormed.lean: an operation's address lies in the range that selects it. The ranges are those of the
address maps (spec/20_memory.md R90, R91); a capability takes every address, one outside its ranges being unmapped
(spec/30_encoding.md R135). Decode.lean reads the selector masks of spec/30_encoding.md R136 and R137 instead, and the two agree
(Sys2Proof/Laws/Decode.lean). -/

namespace Sys2Proof

/-- 0x0000 to 0x1FFF: internal RAM. -/
def inRam (a : Addr) : Bool := a.toNat < 0x2000

/-- 0x2000 to 0x3FFF with register index `i`: a picture-generator port. -/
def inPort (i : Nat) (a : Addr) : Bool := 0x2000 ≤ a.toNat && a.toNat < 0x4000 && a.toNat % 8 == i

/-- A port with no read effect: index 0, 1, 3, 5 or 6 (R242). -/
def inOpenPort (a : Addr) : Bool :=
  inPort 0 a || inPort 1 a || inPort 3 a || inPort 5 a || inPort 6 a

/-- 0x4000 to 0x4013, and 0x4015: the audio registers. -/
def inApu (a : Addr) : Bool := (0x4000 ≤ a.toNat && a.toNat < 0x4014) || a.toNat == 0x4015

/-- 0x4018 to 0x401F: nothing. -/
def inUnmapped (a : Addr) : Bool := 0x4018 ≤ a.toNat && a.toNat < 0x4020

/-- 0x4020 to 0xFFFF: the cartridge window. -/
def inCart (a : Addr) : Bool := 0x4020 ≤ a.toNat

/-- PPU 0x0000 to 0x1FFF: the pattern tables. -/
def inPattern (a : PpuAddr) : Bool := a.toNat < 0x2000

/-- PPU 0x2000 to 0x3EFF: the nametables and their mirror. -/
def inNametable (a : PpuAddr) : Bool := 0x2000 ≤ a.toNat && a.toNat < 0x3F00

/-- PPU 0x3F00 to 0x3FFF: palette RAM. -/
def inPalette (a : PpuAddr) : Bool := 0x3F00 ≤ a.toNat

/-- The operation's address lies in the range of its selector. -/
def Instr.wellFormed (i : Instr) : Bool :=
  match i with
  | .ramRd a => inRam a
  | .ramWr a _ => inRam a
  | .ppuRegRdOpen a => inOpenPort a
  | .ppuCtrlWr a _ => inPort 0 a
  | .ppuMaskWr a _ => inPort 1 a
  | .ppuStatusRd a => inPort 2 a
  | .ppuStatusWr a _ => inPort 2 a
  | .oamAddrWr a _ => inPort 3 a
  | .oamDataRd a => inPort 4 a
  | .oamDataWr a _ => inPort 4 a
  | .ppuScrollWr a _ => inPort 5 a
  | .ppuAddrWr a _ => inPort 6 a
  | .ppuDataRd a => inPort 7 a
  | .ppuDataWr a _ => inPort 7 a
  | .oamDmaRd => true
  | .oamDmaWr _ => true
  | .apuRd a => inApu a
  | .apuWr a _ => inApu a
  | .joy1Rd => true
  | .joyStrobe _ => true
  | .joy2Rd => true
  | .apu4017Wr _ => true
  | .ioUnmappedRd a => inUnmapped a
  | .ioUnmappedWr a _ => inUnmapped a
  | .cartRd a => inCart a
  | .cartWr a _ => inCart a
  | .patternRd a => inPattern a
  | .patternWr a _ => inPattern a
  | .paletteRd a => inPalette a
  | .paletteWr a _ => inPalette a
  | .nametableRd a => inNametable a
  | .nametableWr a _ => inNametable a
  | .vblSet => true
  | .flagsClr => true
  | .pixel => true
  | .bgShift => true
  | .bgFetchNt => true
  | .bgFetchAt => true
  | .bgFetchLo => true
  | .bgFetchHi => true
  | .bgReload => true
  | .vIncX => true
  | .vIncY => true
  | .vCopyX => true
  | .vCopyY => true
  | .bgDummyNt => true
  | .spLoad => true
  | .spClear => true
  | .posAdvance => true
  | .posSkip => true
  | .cpuBurn => true
  | .cpuStep => true
  | .dmaStart => true
  | .dmaWait => true
  | .dmaRead => true
  | .dmaWrite => true
  | .nromCpuRead _ => true
  | .nromCpuWrite _ _ => true
  | .nromPpuRead _ => true
  | .nromPpuWrite _ _ => true
  | .uxromCpuRead _ => true
  | .uxromCpuWrite _ _ => true
  | .uxromPpuRead _ => true
  | .uxromPpuWrite _ _ => true
  | .cnromCpuRead _ => true
  | .cnromCpuWrite _ _ => true
  | .cnromPpuRead _ => true
  | .cnromPpuWrite _ _ => true
  | .mirrorMode => true
  | .irqPending => true
  | .hostInit => true
  | .hostDiscard => true
  | .hostExec _ => true
  | .hostInsertCart _ => true
  | .hostRemoveCartridge => true
  | .hostReset => true
  | .hostKeyDown _ => true
  | .hostKeyUp _ => true
  | .hostPadMask => true
  | .hostDisplayInfo => true
  | .hostSaveSnapshot _ => true
  | .hostLoadSnapshot _ _ => true

end Sys2Proof
end

