-- ==== Sys2Proof/Decode.lean ====
section
/-! DEFINITION. Decode.lean: which operation a selector picks (spec/30_encoding.md R130 to R137), decoding of a request
frame, and the encoder.

The spec gives selector words for CPUBUS (17 bits) and PPUBUS (15 bits), ordinals for HOST, and no word for DOT, CPUCYC
and MAPPER, whose selectors are conditions on the state (Machine/Select.lean). A request frame is the model's own
framing (log 4): one byte for the format, the selector word least significant byte first, then the operand bytes. -/

namespace Sys2Proof

/-! ## The CPU-side opcode map (R136) -/

/-- The read operations of R136. -/
inductive CpuReadOp where
  | ram | regOpen | status | oamData | ppuData | dma | apu | joy1 | joy2 | unmapped | cart
  deriving DecidableEq, Repr

/-- The write operations of R136. -/
inductive CpuWriteOp where
  | ram | ctrl | mask | status | oamAddr | oamData | scroll | addr | ppuData
  | dma | apu | strobe | apu4017 | unmapped | cart
  deriving DecidableEq, Repr

/-- The read operation a CPU address selects: the first test of R136 that holds. -/
def cpuReadOp (a : Addr) : CpuReadOp :=
  if a &&& 0xE000 = 0x0000 then .ram
  else if a &&& 0xE007 = 0x2000 then .regOpen
  else if a &&& 0xE007 = 0x2001 then .regOpen
  else if a &&& 0xE007 = 0x2002 then .status
  else if a &&& 0xE007 = 0x2003 then .regOpen
  else if a &&& 0xE007 = 0x2004 then .oamData
  else if a &&& 0xE007 = 0x2005 then .regOpen
  else if a &&& 0xE007 = 0x2006 then .regOpen
  else if a &&& 0xE007 = 0x2007 then .ppuData
  else if a = 0x4014 then .dma
  else if a = 0x4015 then .apu
  else if a = 0x4016 then .joy1
  else if a = 0x4017 then .joy2
  else if a &&& 0xFFF0 = 0x4000 then .apu
  else if a &&& 0xFFFC = 0x4010 then .apu
  else if a &&& 0xFFF8 = 0x4018 then .unmapped
  else .cart

/-- The write operation a CPU address selects: the first test of R136 that holds. -/
def cpuWriteOp (a : Addr) : CpuWriteOp :=
  if a &&& 0xE000 = 0x0000 then .ram
  else if a &&& 0xE007 = 0x2000 then .ctrl
  else if a &&& 0xE007 = 0x2001 then .mask
  else if a &&& 0xE007 = 0x2002 then .status
  else if a &&& 0xE007 = 0x2003 then .oamAddr
  else if a &&& 0xE007 = 0x2004 then .oamData
  else if a &&& 0xE007 = 0x2005 then .scroll
  else if a &&& 0xE007 = 0x2006 then .addr
  else if a &&& 0xE007 = 0x2007 then .ppuData
  else if a = 0x4014 then .dma
  else if a = 0x4015 then .apu
  else if a = 0x4016 then .strobe
  else if a = 0x4017 then .apu4017
  else if a &&& 0xFFF0 = 0x4000 then .apu
  else if a &&& 0xFFFC = 0x4010 then .apu
  else if a &&& 0xFFF8 = 0x4018 then .unmapped
  else .cart

/-- The instruction of a CPU read of `a`. -/
def cpuReadInstr (a : Addr) : Instr :=
  match cpuReadOp a with
  | .ram => .ramRd a
  | .regOpen => .ppuRegRdOpen a
  | .status => .ppuStatusRd a
  | .oamData => .oamDataRd a
  | .ppuData => .ppuDataRd a
  | .dma => .oamDmaRd
  | .apu => .apuRd a
  | .joy1 => .joy1Rd
  | .joy2 => .joy2Rd
  | .unmapped => .ioUnmappedRd a
  | .cart => .cartRd a

/-- The instruction of a CPU write of `d` to `a`. -/
def cpuWriteInstr (a : Addr) (d : Byte) : Instr :=
  match cpuWriteOp a with
  | .ram => .ramWr a d
  | .ctrl => .ppuCtrlWr a d
  | .mask => .ppuMaskWr a d
  | .status => .ppuStatusWr a d
  | .oamAddr => .oamAddrWr a d
  | .oamData => .oamDataWr a d
  | .scroll => .ppuScrollWr a d
  | .addr => .ppuAddrWr a d
  | .ppuData => .ppuDataWr a d
  | .dma => .oamDmaWr d
  | .apu => .apuWr a d
  | .strobe => .joyStrobe d
  | .apu4017 => .apu4017Wr d
  | .unmapped => .ioUnmappedWr a d
  | .cart => .cartWr a d

/-! ## The PPU-side opcode map (R137) -/

/-- The three regions of the PPU address space (R137). -/
inductive PpuRegion where
  | pattern | palette | nametable
  deriving DecidableEq, Repr

/-- The region a PPU address selects: the first test of R137 that holds. -/
def ppuRegion (a : PpuAddr) : PpuRegion :=
  if a &&& 0x2000 = 0 then .pattern
  else if a &&& 0x3F00 = 0x3F00 then .palette
  else .nametable

/-- The instruction of a PPU read of `a`. -/
def ppuReadInstr (a : PpuAddr) : Instr :=
  match ppuRegion a with
  | .pattern => .patternRd a
  | .palette => .paletteRd a
  | .nametable => .nametableRd a

/-- The instruction of a PPU write of `d` to `a`. -/
def ppuWriteInstr (a : PpuAddr) (d : Byte) : Instr :=
  match ppuRegion a with
  | .pattern => .patternWr a d
  | .palette => .paletteWr a d
  | .nametable => .nametableWr a d

/-! ## Frames (log 4) -/

/-- Why a frame encodes no operation. -/
inductive DecodeError where
  /-- The frame is empty. -/
  | empty
  /-- The first byte names none of the six formats of R130. -/
  | unknownFormat
  /-- A selector or operand byte is missing. -/
  | truncated
  /-- Bytes follow the last operand. -/
  | trailing
  /-- A bit above the selector's width is set. -/
  | reservedBits
  /-- The ordinal names no operation of its format. -/
  | unknownOrdinal
  /-- The frame is of another format than HOST, where the host's commands are read (R440). -/
  | notACommand
  deriving DecidableEq, Repr

/-- The six format bytes, in the order of R130. -/
def fmtCpuBus : Byte := 0
def fmtPpuBus : Byte := 1
def fmtDot : Byte := 2
def fmtCpuCyc : Byte := 3
def fmtMapper : Byte := 4
def fmtHost : Byte := 5

/-- A natural number from its base-256 digits, least significant first. -/
def natOfBytes : List Byte → Nat
  | [] => 0
  | b :: bs => b.toNat + 256 * natOfBytes bs

/-- The base-256 digits of `n`, least significant first, at most `fuel` of them. -/
def bytesOfNat : Nat → Nat → List Byte
  | 0, _ => []
  | fuel + 1, n => if n = 0 then [] else BitVec.ofNat 8 n :: bytesOfNat fuel (n / 256)

/-- CPUBUS: bits 15 to 0 the address, bit 16 the direction (R131). -/
def decodeCpuBus : List Byte → Except DecodeError Instr
  | [lo, hi, dir] =>
    if dir = 0 then .ok (cpuReadInstr (hi ++ lo))
    else if dir = 1 then .error .truncated
    else .error .reservedBits
  | [lo, hi, dir, d] =>
    if dir = 1 then .ok (cpuWriteInstr (hi ++ lo) d)
    else if dir = 0 then .error .trailing
    else .error .reservedBits
  | _ :: _ :: _ :: _ :: _ => .error .trailing
  | _ => .error .truncated

/-- PPUBUS: bits 13 to 0 the address, bit 14 the direction (R132). -/
def decodePpuBus : List Byte → Except DecodeError Instr
  | [lo, hi] =>
    if hi.getLsbD 7 then .error .reservedBits
    else if hi.getLsbD 6 then .error .truncated
    else .ok (ppuReadInstr (hi.extractLsb' 0 6 ++ lo))
  | [lo, hi, d] =>
    if hi.getLsbD 7 then .error .reservedBits
    else if hi.getLsbD 6 then .ok (ppuWriteInstr (hi.extractLsb' 0 6 ++ lo) d)
    else .error .trailing
  | _ :: _ :: _ => .error .trailing
  | _ => .error .truncated

/-- DOT: an ordinal in the order of opcode_table.json (log 4). -/
def decodeDot : List Byte → Except DecodeError Instr
  | [b] =>
    match b.toNat with
    | 0 => .ok .vblSet
    | 1 => .ok .flagsClr
    | 2 => .ok .pixel
    | 3 => .ok .bgShift
    | 4 => .ok .bgFetchNt
    | 5 => .ok .bgFetchAt
    | 6 => .ok .bgFetchLo
    | 7 => .ok .bgFetchHi
    | 8 => .ok .bgReload
    | 9 => .ok .vIncX
    | 10 => .ok .vIncY
    | 11 => .ok .vCopyX
    | 12 => .ok .vCopyY
    | 13 => .ok .bgDummyNt
    | 14 => .ok .spLoad
    | 15 => .ok .spClear
    | 16 => .ok .posAdvance
    | 17 => .ok .posSkip
    | _ => .error .unknownOrdinal
  | [] => .error .truncated
  | _ => .error .trailing

/-- CPUCYC: an ordinal in the order of opcode_table.json (log 4). -/
def decodeCpuCyc : List Byte → Except DecodeError Instr
  | [b] =>
    match b.toNat with
    | 0 => .ok .cpuBurn
    | 1 => .ok .cpuStep
    | 2 => .ok .dmaStart
    | 3 => .ok .dmaWait
    | 4 => .ok .dmaRead
    | 5 => .ok .dmaWrite
    | _ => .error .unknownOrdinal
  | [] => .error .truncated
  | _ => .error .trailing

/-- A capability read on the CPU side: any address (R135). -/
def decodeCapCpuRead (f : Addr → Instr) : List Byte → Except DecodeError Instr
  | [lo, hi] => .ok (f (hi ++ lo))
  | _ :: _ :: _ => .error .trailing
  | _ => .error .truncated

/-- A capability write on the CPU side. -/
def decodeCapCpuWrite (f : Addr → Byte → Instr) : List Byte → Except DecodeError Instr
  | [lo, hi, d] => .ok (f (hi ++ lo) d)
  | _ :: _ :: _ :: _ => .error .trailing
  | _ => .error .truncated

/-- A capability read on the PPU side: any 14-bit address (R135). -/
def decodeCapPpuRead (f : PpuAddr → Instr) : List Byte → Except DecodeError Instr
  | [lo, hi] =>
    if hi.toNat < 0x40 then .ok (f (hi.extractLsb' 0 6 ++ lo)) else .error .reservedBits
  | _ :: _ :: _ => .error .trailing
  | _ => .error .truncated

/-- A capability write on the PPU side. -/
def decodeCapPpuWrite (f : PpuAddr → Byte → Instr) : List Byte → Except DecodeError Instr
  | [lo, hi, d] =>
    if hi.toNat < 0x40 then .ok (f (hi.extractLsb' 0 6 ++ lo) d) else .error .reservedBits
  | _ :: _ :: _ :: _ => .error .trailing
  | _ => .error .truncated

/-- An operation without operand bytes. -/
def decodePlain (i : Instr) : List Byte → Except DecodeError Instr
  | [] => .ok i
  | _ => .error .trailing

/-- An operation with one operand byte. -/
def decodeByte (f : Byte → Instr) : List Byte → Except DecodeError Instr
  | [b] => .ok (f b)
  | [] => .error .truncated
  | _ => .error .trailing

/-- MAPPER: an ordinal for (variant, capability) in the order of opcode_table.json (log 4), then the address. -/
def decodeMapper : List Byte → Except DecodeError Instr
  | [] => .error .truncated
  | b :: args =>
    match b.toNat with
    | 0 => decodeCapCpuRead .nromCpuRead args
    | 1 => decodeCapCpuWrite .nromCpuWrite args
    | 2 => decodeCapPpuRead .nromPpuRead args
    | 3 => decodeCapPpuWrite .nromPpuWrite args
    | 4 => decodeCapCpuRead .uxromCpuRead args
    | 5 => decodeCapCpuWrite .uxromCpuWrite args
    | 6 => decodeCapPpuRead .uxromPpuRead args
    | 7 => decodeCapPpuWrite .uxromPpuWrite args
    | 8 => decodeCapCpuRead .cnromCpuRead args
    | 9 => decodeCapCpuWrite .cnromCpuWrite args
    | 10 => decodeCapPpuRead .cnromPpuRead args
    | 11 => decodeCapPpuWrite .cnromPpuWrite args
    | 12 => decodePlain .mirrorMode args
    | 13 => decodePlain .irqPending args
    | _ => .error .unknownOrdinal

/-- HOST: the ordinal of R134 as opcode_table.json gives it, then the operands of the signature (log 4). -/
def decodeHost : List Byte → Except DecodeError Instr
  | [] => .error .truncated
  | b :: args =>
    match b.toNat with
    | 0 => decodePlain .hostInit args
    | 1 => decodePlain .hostDiscard args
    | 2 => .ok (.hostExec (natOfBytes args))
    | 3 => .ok (.hostInsertCart args)
    | 4 => decodePlain .hostRemoveCartridge args
    | 5 => decodePlain .hostReset args
    | 6 => decodeByte .hostKeyDown args
    | 7 => decodeByte .hostKeyUp args
    | 8 => decodePlain .hostPadMask args
    | 9 => decodePlain .hostDisplayInfo args
    | 10 => decodeByte .hostSaveSnapshot args
    | 11 =>
      match args with
      | [] => .error .truncated
      | slot :: version => .ok (.hostLoadSnapshot (natOfBytes version) slot)
    | _ => .error .unknownOrdinal

/-- The operation a frame asks for. -/
def decode : List Byte → Except DecodeError Instr
  | [] => .error .empty
  | fmt :: rest =>
    match fmt.toNat with
    | 0 => decodeCpuBus rest
    | 1 => decodePpuBus rest
    | 2 => decodeDot rest
    | 3 => decodeCpuCyc rest
    | 4 => decodeMapper rest
    | 5 => decodeHost rest
    | _ => .error .unknownFormat

/-- The command a frame of the host asks for: one of the twelve and nothing else (R440). -/
def decodeCommand : List Byte → Except DecodeError Instr
  | [] => .error .empty
  | fmt :: rest => if fmt = fmtHost then decodeHost rest else .error .notACommand

/-! ## The encoder -/

/-- The low byte of a CPU address. -/
def addrLo (a : Addr) : Byte := a.extractLsb' 0 8

/-- The high byte of a CPU address. -/
def addrHi (a : Addr) : Byte := a.extractLsb' 8 8

/-- The low byte of a PPU address. -/
def ppuLo (a : PpuAddr) : Byte := a.extractLsb' 0 8

/-- The high six bits of a PPU address, in bits 5 to 0. -/
def ppuHi (a : PpuAddr) : Byte := (a.extractLsb' 8 6).setWidth 8

/-- `CPUBUS` word with `dir` = 0. -/
def encCpuRd (a : Addr) : List Byte := [fmtCpuBus, addrLo a, addrHi a, 0]

/-- `CPUBUS` word with `dir` = 1, then the data byte. -/
def encCpuWr (a : Addr) (d : Byte) : List Byte := [fmtCpuBus, addrLo a, addrHi a, 1, d]

/-- `PPUBUS` word with `dir` = 0. -/
def encPpuRd (a : PpuAddr) : List Byte := [fmtPpuBus, ppuLo a, ppuHi a]

/-- `PPUBUS` word with `dir` = 1, then the data byte. -/
def encPpuWr (a : PpuAddr) (d : Byte) : List Byte := [fmtPpuBus, ppuLo a, ppuHi a ||| 0x40, d]

/-- The frame of an operation. -/
def encode (i : Instr) : List Byte :=
  match i with
  | .ramRd a => encCpuRd a
  | .ramWr a d => encCpuWr a d
  | .ppuRegRdOpen a => encCpuRd a
  | .ppuCtrlWr a d => encCpuWr a d
  | .ppuMaskWr a d => encCpuWr a d
  | .ppuStatusRd a => encCpuRd a
  | .ppuStatusWr a d => encCpuWr a d
  | .oamAddrWr a d => encCpuWr a d
  | .oamDataRd a => encCpuRd a
  | .oamDataWr a d => encCpuWr a d
  | .ppuScrollWr a d => encCpuWr a d
  | .ppuAddrWr a d => encCpuWr a d
  | .ppuDataRd a => encCpuRd a
  | .ppuDataWr a d => encCpuWr a d
  | .oamDmaRd => encCpuRd 0x4014
  | .oamDmaWr d => encCpuWr 0x4014 d
  | .apuRd a => encCpuRd a
  | .apuWr a d => encCpuWr a d
  | .joy1Rd => encCpuRd 0x4016
  | .joyStrobe d => encCpuWr 0x4016 d
  | .joy2Rd => encCpuRd 0x4017
  | .apu4017Wr d => encCpuWr 0x4017 d
  | .ioUnmappedRd a => encCpuRd a
  | .ioUnmappedWr a d => encCpuWr a d
  | .cartRd a => encCpuRd a
  | .cartWr a d => encCpuWr a d
  | .patternRd a => encPpuRd a
  | .patternWr a d => encPpuWr a d
  | .paletteRd a => encPpuRd a
  | .paletteWr a d => encPpuWr a d
  | .nametableRd a => encPpuRd a
  | .nametableWr a d => encPpuWr a d
  | .vblSet => [fmtDot, 0]
  | .flagsClr => [fmtDot, 1]
  | .pixel => [fmtDot, 2]
  | .bgShift => [fmtDot, 3]
  | .bgFetchNt => [fmtDot, 4]
  | .bgFetchAt => [fmtDot, 5]
  | .bgFetchLo => [fmtDot, 6]
  | .bgFetchHi => [fmtDot, 7]
  | .bgReload => [fmtDot, 8]
  | .vIncX => [fmtDot, 9]
  | .vIncY => [fmtDot, 10]
  | .vCopyX => [fmtDot, 11]
  | .vCopyY => [fmtDot, 12]
  | .bgDummyNt => [fmtDot, 13]
  | .spLoad => [fmtDot, 14]
  | .spClear => [fmtDot, 15]
  | .posAdvance => [fmtDot, 16]
  | .posSkip => [fmtDot, 17]
  | .cpuBurn => [fmtCpuCyc, 0]
  | .cpuStep => [fmtCpuCyc, 1]
  | .dmaStart => [fmtCpuCyc, 2]
  | .dmaWait => [fmtCpuCyc, 3]
  | .dmaRead => [fmtCpuCyc, 4]
  | .dmaWrite => [fmtCpuCyc, 5]
  | .nromCpuRead a => [fmtMapper, 0, addrLo a, addrHi a]
  | .nromCpuWrite a d => [fmtMapper, 1, addrLo a, addrHi a, d]
  | .nromPpuRead a => [fmtMapper, 2, ppuLo a, ppuHi a]
  | .nromPpuWrite a d => [fmtMapper, 3, ppuLo a, ppuHi a, d]
  | .uxromCpuRead a => [fmtMapper, 4, addrLo a, addrHi a]
  | .uxromCpuWrite a d => [fmtMapper, 5, addrLo a, addrHi a, d]
  | .uxromPpuRead a => [fmtMapper, 6, ppuLo a, ppuHi a]
  | .uxromPpuWrite a d => [fmtMapper, 7, ppuLo a, ppuHi a, d]
  | .cnromCpuRead a => [fmtMapper, 8, addrLo a, addrHi a]
  | .cnromCpuWrite a d => [fmtMapper, 9, addrLo a, addrHi a, d]
  | .cnromPpuRead a => [fmtMapper, 10, ppuLo a, ppuHi a]
  | .cnromPpuWrite a d => [fmtMapper, 11, ppuLo a, ppuHi a, d]
  | .mirrorMode => [fmtMapper, 12]
  | .irqPending => [fmtMapper, 13]
  | .hostInit => [fmtHost, 0]
  | .hostDiscard => [fmtHost, 1]
  | .hostExec t => fmtHost :: 2 :: bytesOfNat t t
  | .hostInsertCart image => fmtHost :: 3 :: image
  | .hostRemoveCartridge => [fmtHost, 4]
  | .hostReset => [fmtHost, 5]
  | .hostKeyDown code => [fmtHost, 6, code]
  | .hostKeyUp code => [fmtHost, 7, code]
  | .hostPadMask => [fmtHost, 8]
  | .hostDisplayInfo => [fmtHost, 9]
  | .hostSaveSnapshot slot => [fmtHost, 10, slot]
  | .hostLoadSnapshot version slot => fmtHost :: 11 :: slot :: bytesOfNat version version

/-! ## Words as spec/opcode_table.json numbers them (log 5) -/

/-- The operand bytes of zeros that complete a HOST ordinal. -/
def hostZeros (ord : Nat) : List Byte :=
  match ord with
  | 6 => [0]
  | 7 => [0]
  | 10 => [0]
  | 11 => [0]
  | _ => []

/-- The frame of a table word: more than 16 bits is a CPUBUS word, 9 to 16 bits a PPUBUS word, up to 8 bits a HOST
ordinal; the operands are zeros. A bit above the selector's width stays in the frame, for the decoder to refuse. -/
def tableFrame (nbits w : Nat) : List Byte :=
  if nbits ≤ 8 then fmtHost :: BitVec.ofNat 8 w :: hostZeros (w % 256)
  else if nbits ≤ 16 then
    [fmtPpuBus, BitVec.ofNat 8 w, BitVec.ofNat 8 (w / 256)] ++ (if w.testBit 14 then [0] else [])
  else
    [fmtCpuBus, BitVec.ofNat 8 w, BitVec.ofNat 8 (w / 256), BitVec.ofNat 8 (w / 65536)] ++
      (if w.testBit 16 then [0] else [])

/-- The instruction the decoder reads from a table word. -/
def decodeTableWord (nbits w : Nat) : Option Instr :=
  match decode (tableFrame nbits w) with
  | .ok i => some i
  | .error _ => none

end Sys2Proof
end

