-- ==== Sys2Proof/Machine/State.lean ====
section
/-! DEFINITION. State.lean: everything the spec gives the machine (spec/10_state.md R20 to R37), as plain data, and its
value after `init` (spec/70_reset_and_hazards.md R510). The field comments name the rule. -/

namespace Sys2Proof.Machine

/-- No operation of the CORE can fail or stop the machine (R475), and a failing host command is a next state with a
failure result (R471): there is no fault. -/
inductive Fault where
  deriving DecidableEq, Repr

/-- Why the model answers no next state. None of these stands for an effect the spec gives. -/
inductive Refusal where
  /-- An instruction that has no meaning yet; raised by `exec`'s refused arms (none is left). Safe. -/
  | notModelled (mnemonic : String)
  /-- Raised by `step`: the Machine was discarded and what is asked for is not `init` (R442, U13; log 12). Safe. -/
  | discarded
  /-- Raised by `step`: an operation called alone by a test bench where its selector does not hold (R130, R133, R135),
  or a DMA trigger while the engine runs (R191; log 13). Safe: the hardware does not perform it there. -/
  | notSelected
  /-- Raised by the capability operations of a named variant when the inserted cartridge is not of that variant, or
  none is inserted (R340, R345; log 14). Safe: there is no such call. -/
  | variantNotInserted
  /-- Raised by `load_snapshot` with the right version and a storage slot that nothing was saved to (R422, U5;
  log 11). Safe: the spec leaves it outside the contract. -/
  | nothingSaved
  deriving DecidableEq, Repr

/-- Which half of a byte move the DMA engine does next (R24). -/
inductive DmaPhase where
  | read
  | write
  deriving DecidableEq, Repr

/-- Driver state `m.cpu` (R23). -/
structure Cpu where
  busy : Nat
  nmiPending : Bool
  irqLine : Bool
  cycles : Nat
  deriving DecidableEq, Repr

/-- DMA engine state `m.dma` (R24). -/
structure Dma where
  request : Bool
  active : Bool
  page : Byte
  wait : Nat
  index : Byte
  phase : DmaPhase
  latch : Byte
  deriving DecidableEq, Repr

/-- Bus state `m.bus` (R25). -/
structure Bus where
  ram : Memory 8
  openBus : Byte
  deriving DecidableEq, Repr

/-- One controller latch `m.pad[p]` (R26). -/
structure Pad where
  live : Byte
  snapshot : Byte
  index : Nat
  strobe : Bool
  deriving DecidableEq, Repr

/-- One sprite unit `m.ppu.sp[i]` (R34). -/
structure SpriteUnit where
  x : Byte
  attr : Byte
  lo : Byte
  hi : Byte
  deriving DecidableEq, Repr

/-- Picture-generator state `m.ppu` (R28 to R35). `w` is the two-write toggle, `false` for 0. `sp` has eight units. -/
structure Ppu where
  -- port registers and flags (R28)
  ctrl : Byte
  mask : Byte
  vblank : Bool
  sprite0Hit : Bool
  overflow : Bool
  oamAddr : Byte
  -- address and scroll registers (R29)
  v : VramReg
  t : VramReg
  x : BitVec 3
  w : Bool
  readBuffer : Byte
  -- position (R30)
  scanline : Nat
  cycle : Nat
  frame : Nat
  -- memories (R31, R32)
  oam : Memory 8
  vram : Memory 8
  palette : Memory 6
  -- background pipeline (R33)
  ntByte : Byte
  atBits : BitVec 2
  ptLo : Byte
  ptHi : Byte
  bgLo : BitVec 16
  bgHi : BitVec 16
  atLo : BitVec 16
  atHi : BitVec 16
  -- sprite units (R34)
  spCount : Nat
  sp : List SpriteUnit
  spZero : Bool
  -- frame buffer (R35)
  fb : Memory 6
  deriving DecidableEq, Repr

/-- Mapper variant state (R37): the three reference variants, and a further one with its id and register record. -/
inductive Mapper where
  | nrom
  | uxrom (prgBank : Byte)
  | cnrom (chrBank : Byte)
  | further (id : Byte) (regs : Opaque)
  deriving DecidableEq, Repr

/-- A cartridge (R36). -/
structure Cartridge where
  header : Header
  prgRom : Memory 8
  chr : Memory 8
  chrIsRam : Bool
  prgRam : Memory 8
  mapper : Mapper
  deriving DecidableEq, Repr

/-- The Machine `m`, the root aggregate (R20). -/
structure Mach where
  core : Opaque
  cpu : Cpu
  dma : Dma
  bus : Bus
  ppu : Ppu
  cart : Option Cartridge
  pad0 : Pad
  pad1 : Pad
  audio : Opaque
  deriving DecidableEq, Repr

/-- The failures of host commands (R470). -/
inductive HostError where
  | malformedCartridge
  | unsupportedMapper
  | snapshotVersionMismatch
  deriving DecidableEq, Repr

/-- The framebuffer descriptor of `display_info` (R447); `palette` lists the 64 colours in index order. -/
structure Display where
  width : Nat
  height : Nat
  pixels : Memory 6
  palette : List (BitVec 24)
  deriving DecidableEq, Repr

/-- What the last operation answered its issuer (log 10). -/
inductive Result where
  /-- The operation returns nothing. -/
  | none
  /-- A bus read's byte (R181, R250). -/
  | byte (b : Byte)
  /-- A read capability's optional byte (R340). -/
  | optByte (b : Option Byte)
  /-- `MirrorMode()` (R362). -/
  | mode (m : MirrorMode)
  /-- `MapIrqPending()` (R349). -/
  | level (b : Bool)
  /-- A fallible command that succeeded: `true`. -/
  | success
  /-- A fallible command that failed: the host sees `false`; the name is the model's own use (R470). -/
  | failure (e : HostError)
  /-- `exec`'s `ticks_executed` (R397). -/
  | ticks (n : Nat)
  /-- `pad_mask()` (R446). -/
  | padMask (m : BitVec 16)
  /-- `display_info()` (R447). -/
  | display (d : Display)
  /-- `save_snapshot`'s version tag (R421). -/
  | version (tag : Nat)
  deriving DecidableEq, Repr

/-- A snapshot: a version tag and a whole Machine (R420). -/
structure Snapshot where
  version : Nat
  image : Mach
  deriving DecidableEq, Repr

/-- The state of the model: the Machine, and the host's side of its interface: whether the Machine is alive (R441,
R442), the storage the host keeps snapshots in (R420), the answer of the last operation, the host's commands not yet
run, oldest first (R440), and the one operation a test bench calls directly (R172; log 2), which no step ever sets. -/
structure State where
  machine : Mach
  alive : Bool
  snapshots : List (Nat × Snapshot)
  result : Result
  requests : List (List Byte)
  bench : Option (List Byte)
  deriving DecidableEq, Repr

/-- Controller latch at power-on (R510). -/
def Pad.powerOn : Pad := { live := 0, snapshot := 0, index := 0, strobe := false }

/-- DMA engine at power-on (R510). -/
def Dma.powerOn : Dma :=
  { request := false, active := false, page := 0, wait := 0, index := 0, phase := .read, latch := 0 }

/-- A cleared sprite unit (R510, R511). -/
def SpriteUnit.zero : SpriteUnit := { x := 0, attr := 0, lo := 0, hi := 0 }

/-- Picture generator at power-on (R510). -/
def Ppu.powerOn : Ppu :=
  { ctrl := 0, mask := 0, vblank := false, sprite0Hit := false, overflow := false, oamAddr := 0,
    v := 0, t := 0, x := 0, w := false, readBuffer := 0, scanline := 0, cycle := 0, frame := 0,
    oam := [], vram := [], palette := [],
    ntByte := 0, atBits := 0, ptLo := 0, ptHi := 0, bgLo := 0, bgHi := 0, atLo := 0, atHi := 0,
    spCount := 0, sp := List.replicate 8 SpriteUnit.zero, spZero := false, fb := [] }

/-- `m_init`, the power-on state of the Machine (R510). -/
def Mach.powerOn (c : Cfg) : Mach :=
  { core := c.core.powerOn
    cpu := { busy := 0, nmiPending := false, irqLine := false, cycles := 0 }
    dma := Dma.powerOn
    bus := { ram := [], openBus := c.openBusInit }
    ppu := Ppu.powerOn
    cart := none
    pad0 := Pad.powerOn
    pad1 := Pad.powerOn
    audio := c.audio.powerOn }

/-- The state after `init`, with nothing asked for, nothing saved and nothing answered (R441, R510; log 1). -/
def State.reset : State :=
  { machine := Mach.powerOn Config.cfg, alive := true, snapshots := [], result := .none, requests := [], bench := none }

end Sys2Proof.Machine
end

