-- ==== Sys2Proof/Machine/Memory.lean ====
section
/-! DEFINITION. Memory.lean: reading and writing a memory (spec/20_memory.md R87, R96), and the small bit helpers. -/

namespace Sys2Proof.Machine

/-- The canonical form (log 16): addresses strictly rising, no value 0. -/
abbrev Memory.wf {w : Nat} (m : Memory w) : Prop :=
  m.Pairwise (fun c d => c.1 < d.1) ∧ ∀ c ∈ m, c.2 ≠ 0

/-- Every listed address is below `n`. -/
abbrev Memory.below {w : Nat} (n : Nat) (m : Memory w) : Prop := ∀ c ∈ m, c.1 < n

/-- The value at an address; an address that is not listed reads 0. -/
def Memory.read {w : Nat} : Memory w → Nat → BitVec w
  | [], _ => 0
  | (k, b) :: rest, a => if a = k then b else Memory.read rest a

/-- The memory without an entry for `a`. -/
def Memory.erase {w : Nat} (m : Memory w) (a : Nat) : Memory w := m.filter (fun c => c.1 != a)

/-- The entry `(a, b)` put at its place. -/
def Memory.insert {w : Nat} (a : Nat) (b : BitVec w) : Memory w → Memory w
  | [] => [(a, b)]
  | (k, x) :: rest => if a < k then (a, b) :: (k, x) :: rest else (k, x) :: Memory.insert a b rest

/-- Store `b` at `a`; storing 0 removes the entry. -/
def Memory.write {w : Nat} (m : Memory w) (a : Nat) (b : BitVec w) : Memory w :=
  if b = 0 then Memory.erase m a else Memory.insert a b (Memory.erase m a)

/-- Store a list of bytes one after another. -/
def Memory.writeAll {w : Nat} (m : Memory w) (l : List (Nat × BitVec w)) : Memory w :=
  l.foldl (fun m c => Memory.write m c.1 c.2) m

/-- The memory whose locations from `i` on hold the bytes of a list. -/
def Memory.ofBytes : Nat → List Byte → Memory 8
  | _, [] => []
  | i, b :: bs => if b = 0 then Memory.ofBytes (i + 1) bs else (i, b) :: Memory.ofBytes (i + 1) bs

/-- `v` with the field of `w` bits from bit `lo` on replaced by `f`: the assignment `v[lo+w-1:lo] <- f` (R9). -/
def setField {n w : Nat} (v : BitVec n) (lo : Nat) (f : BitVec w) : BitVec n :=
  (v &&& ~~~((BitVec.allOnes w).setWidth n <<< lo)) ||| (f.setWidth n <<< lo)

/-- One bit as a byte (`zext_8`). -/
def bitByte (b : Bool) : Byte := if b then 1 else 0

/-- `v` with bit `i` set to `b`. -/
def setBit (v : Byte) (i : Nat) (b : Bool) : Byte :=
  if b then v ||| (1#8 <<< i) else v &&& ~~~(1#8 <<< i)

/-- The bits of a byte in reverse order (R299). -/
def rev8 (b : Byte) : Byte :=
  ((BitVec.ofBool (b.getLsbD 0) ++ BitVec.ofBool (b.getLsbD 1)) ++
   (BitVec.ofBool (b.getLsbD 2) ++ BitVec.ofBool (b.getLsbD 3))) ++
  ((BitVec.ofBool (b.getLsbD 4) ++ BitVec.ofBool (b.getLsbD 5)) ++
   (BitVec.ofBool (b.getLsbD 6) ++ BitVec.ofBool (b.getLsbD 7)))

end Sys2Proof.Machine
end

