-- ==== Sys2Proof/Machine/Operands.lean ====
section
/-! DEFINITION. Operands.lean: the fields of registers and memory formats, and the addresses computed from them
(spec/30_encoding.md sections 3 to 6; spec/41_ppu_registers.md R256, R257; spec/42_ppu_dot_machine.md R296 to R299). -/

namespace Sys2Proof.Machine

/-! ## Control register (R141) -/

/-- Base nametable, bits 1 to 0. -/
def ctrlNtBase (ctrl : Byte) : BitVec 2 := ctrl.extractLsb' 0 2
/-- VRAM address increment, bit 2: 32 when set, else 1 (R148, R243). -/
def ctrlInc (ctrl : Byte) : VramReg := if ctrl.getLsbD 2 then 32 else 1
/-- Pattern table of 8 by 8 sprites, bit 3. -/
def ctrlSpTable (ctrl : Byte) : Bool := ctrl.getLsbD 3
/-- Pattern table of the background, bit 4. -/
def ctrlBgTable (ctrl : Byte) : Bool := ctrl.getLsbD 4
/-- Sprite height, bit 5: 16 rows when set, else 8. -/
def ctrlSpTall (ctrl : Byte) : Bool := ctrl.getLsbD 5
/-- NMI enable, bit 7. -/
def ctrlNmiEnable (ctrl : Byte) : Bool := ctrl.getLsbD 7

/-! ## Mask register (R142) -/

/-- Grayscale, bit 0. -/
def maskGray (mask : Byte) : Bool := mask.getLsbD 0
/-- Background shown in the leftmost 8 pixels, bit 1. -/
def maskBgLeft (mask : Byte) : Bool := mask.getLsbD 1
/-- Sprites shown in the leftmost 8 pixels, bit 2. -/
def maskSpLeft (mask : Byte) : Bool := mask.getLsbD 2
/-- Background rendering enable, bit 3. -/
def maskShowBg (mask : Byte) : Bool := mask.getLsbD 3
/-- Sprite rendering enable, bit 4. -/
def maskShowSp (mask : Byte) : Bool := mask.getLsbD 4
/-- The condition the spec calls rendering (R14, R272). -/
def rendering (mask : Byte) : Bool := maskShowBg mask || maskShowSp mask

/-! ## `v` and `t` (R147) -/

def coarseX (v : VramReg) : BitVec 5 := v.extractLsb' 0 5
def coarseY (v : VramReg) : BitVec 5 := v.extractLsb' 5 5
def ntX (v : VramReg) : Bool := v.getLsbD 10
def ntY (v : VramReg) : Bool := v.getLsbD 11
def fineY (v : VramReg) : BitVec 3 := v.extractLsb' 12 3

def setCoarseX (v : VramReg) (f : BitVec 5) : VramReg := setField v 0 f
def setCoarseY (v : VramReg) (f : BitVec 5) : VramReg := setField v 5 f
def setNtX (v : VramReg) (b : Bool) : VramReg := setField v 10 (BitVec.ofBool b)
def setNtY (v : VramReg) (b : Bool) : VramReg := setField v 11 (BitVec.ofBool b)
def setFineY (v : VramReg) (f : BitVec 3) : VramReg := setField v 12 f

/-- The PPU address `v[13:0]` the data port uses (R146). -/
def dataAddr (v : VramReg) : PpuAddr := v.setWidth 14

/-- Control write: `t[11:10] <- d[1:0]` (R231). -/
def ctrlToT (t : VramReg) (d : Byte) : VramReg := setField t 10 (ctrlNtBase d)

/-- First scroll write: `t[4:0] <- d[7:3]` (R145, R238); fine X `d[2:0]` goes to `x`. -/
def scrollXToT (t : VramReg) (d : Byte) : VramReg := setCoarseX t (d.extractLsb' 3 5)

/-- Second scroll write: `t[14:12] <- d[2:0]; t[9:5] <- d[7:3]` (R145, R238). -/
def scrollYToT (t : VramReg) (d : Byte) : VramReg :=
  setCoarseY (setFineY t (d.extractLsb' 0 3)) (d.extractLsb' 3 5)

/-- First address write: `t[13:8] <- d[5:0]; t[14] <- 0` (R146, R239). -/
def addrHiToT (t : VramReg) (d : Byte) : VramReg :=
  setField (setField t 8 (d.extractLsb' 0 6)) 14 (0#1)

/-- Second address write: `t[7:0] <- d` (R146, R239). -/
def addrLoToT (t : VramReg) (d : Byte) : VramReg := setField t 0 d

/-- Coarse X increment (R284). -/
def incX (v : VramReg) : VramReg :=
  if coarseX v = 31 then setNtX (setCoarseX v 0) (!ntX v) else setCoarseX v (coarseX v + 1)

/-- Y increment (R285). -/
def incY (v : VramReg) : VramReg :=
  if (fineY v).toNat < 7 then setFineY v (fineY v + 1)
  else
    let v0 := setFineY v 0
    if coarseY v = 29 then setCoarseY (setNtY v0 (!ntY v)) 0
    else if coarseY v = 31 then setCoarseY v0 0
    else setCoarseY v0 (coarseY v + 1)

/-- Horizontal copy: `v[10] <- t[10]; v[4:0] <- t[4:0]` (R286). -/
def copyX (v t : VramReg) : VramReg := setCoarseX (setNtX v (ntX t)) (coarseX t)

/-- Vertical copy: `v[14:11] <- t[14:11]; v[9:5] <- t[9:5]` (R287). -/
def copyY (v t : VramReg) : VramReg :=
  setCoarseY (setField v 11 (t.extractLsb' 11 4)) (coarseY t)

/-! ## Background addresses -/

/-- Nametable entry address for the tile at `v` (R152). -/
def ntAddr (v : VramReg) : PpuAddr := 0x2000#14 ||| (v &&& 0x0FFF#15).setWidth 14

/-- Attribute byte address for the tile at `v` (R151). -/
def atAddr (v : VramReg) : PpuAddr :=
  0x23C0#14 ||| (v &&& 0x0C00#15).setWidth 14 ||| ((v >>> 4) &&& 0x38#15).setWidth 14
    ||| ((v >>> 2) &&& 0x07#15).setWidth 14

/-- The shift that selects the quadrant (R151). -/
def atShift (v : VramReg) : Nat := (((v >>> 4) &&& 4#15) ||| (v &&& 2#15)).toNat

/-- The palette selector of the tile at `v` in attribute byte `a` (R280): `(a >> sh) & 3`. -/
def atSelect (a : Byte) (v : VramReg) : BitVec 2 := (a >>> atShift v).setWidth 2

/-- The base of pattern table 0 or 1 (R153). -/
def tableBase (b : Bool) : PpuAddr := if b then 0x1000 else 0

/-- Low-plane address of the background tile row (R281). -/
def bgPatternAddr (ctrl ntByte : Byte) (v : VramReg) : PpuAddr :=
  tableBase (ctrlBgTable ctrl) + (ntByte.setWidth 14 <<< 4) + (fineY v).setWidth 14

/-- A shift register after a reload of its low byte (R283). -/
def reloadLow (r : BitVec 16) (b : Byte) : BitVec 16 := (r &&& 0xFF00#16) ||| b.setWidth 16

/-- A bit repeated over a byte (R283). -/
def spread (b : Bool) : Byte := if b then 0xFF else 0x00

/-! ## PPU memory (R256, R257) -/

/-- `PalIndex(a)` (R256). -/
def palIndex (a : PpuAddr) : Nat :=
  let i := a &&& 0x1F
  if i &&& 0x13 = 0x10 then (i &&& 0x0F).toNat else i.toNat

/-- The quarter of nametable RAM a table reaches (R95, R257). -/
def ntQuarter (mode : MirrorMode) (table : Nat) : Nat :=
  match mode with
  | .horizontal => table / 2
  | .vertical => table % 2
  | .singleLower => 0
  | .singleUpper => 1
  | .fourScreen => table

/-- `NtMap(mode, a)` for `a` in 0x2000 to 0x3EFF (R257). -/
def ntMap (mode : MirrorMode) (a : PpuAddr) : Nat :=
  let o := (a - 0x2000) &&& 0x0FFF
  ntQuarter mode (o.toNat / 1024) * 0x0400 + o.toNat % 1024

/-! ## Sprites (R150, R296 to R299) -/

/-- Sprite height in rows (R296). -/
def spriteHeight (ctrl : Byte) : Nat := if ctrlSpTall ctrl then 16 else 8

/-- `row = s - y` on integers (R296). -/
def spriteRow (s : Nat) (y : Byte) : Int := (s : Int) - (y.toNat : Int)

/-- The in-range test of R296. -/
def spriteInRange (ctrl : Byte) (s : Nat) (y : Byte) : Bool :=
  0 ≤ spriteRow s y && spriteRow s y < (spriteHeight ctrl : Int)

/-- Attribute bits of an OAM entry (R150). -/
def attrPalette (attr : Byte) : BitVec 2 := attr.extractLsb' 0 2
def attrBehind (attr : Byte) : Bool := attr.getLsbD 5
def attrFlipH (attr : Byte) : Bool := attr.getLsbD 6
def attrFlipV (attr : Byte) : Bool := attr.getLsbD 7

/-- Low-plane pattern address of row `row` of a sprite (R298). -/
def spriteAddr (ctrl tile attr : Byte) (row : Nat) : PpuAddr :=
  let h := spriteHeight ctrl
  let r := if attrFlipV attr then h - 1 - row else row
  if ctrlSpTall ctrl then
    tableBase (tile.getLsbD 0) +
      (((tile &&& 0xFE).setWidth 14 + (if 8 ≤ r then 1#14 else 0#14)) <<< 4) + BitVec.ofNat 14 (r % 8)
  else tableBase (ctrlSpTable ctrl) + (tile.setWidth 14 <<< 4) + BitVec.ofNat 14 r

/-- A pattern byte flipped horizontally when the attribute asks (R299). -/
def flipH (attr b : Byte) : Byte := if attrFlipH attr then rev8 b else b

/-! ## Controllers and key codes (R157, R158, R444) -/

/-- The two controller ports. -/
inductive Port where
  | one
  | two
  deriving DecidableEq, Repr

/-- The (controller, button) pair a key code names (log 15): codes 0 to 7 are the buttons of controller 1, 8 to 15
those of controller 2, and any other code maps to no pair. -/
def keyPair (code : Byte) : Option (Port × Nat) :=
  if code.toNat < 8 then some (.one, code.toNat)
  else if code.toNat < 16 then some (.two, code.toNat - 8)
  else none

/-! ## Cartridge image (R160 to R164, R331) -/

/-- The required magic (R161). -/
def magic : List Byte := [0x4E, 0x45, 0x53, 0x1A]

/-- `ParseHeader(b)` (R331). -/
def parseHeader (b : List Byte) : Header :=
  let f6 := b.getD 6 0
  let f7 := b.getD 7 0
  { mapperId := (f7 &&& 0xF0) ||| (f6 >>> 4)
    prgBanks := b.getD 4 0
    chrBanks := b.getD 5 0
    mirroring := if f6.getLsbD 0 then .vertical else .horizontal
    battery := f6.getLsbD 1
    trainer := f6.getLsbD 2
    fourScreen := f6.getLsbD 3 }

/-- Where the program banks begin in the image (R164). -/
def prgOffset (h : Header) : Nat := 16 + (if h.trainer then Config.trainerSize else 0)

/-- The required length of the image (R164). -/
def neededLength (h : Header) : Nat :=
  prgOffset h + h.prgBanks.toNat * Config.prgBank + h.chrBanks.toNat * Config.chrBank

/-- The mode the header gives (R163, R362). -/
def headerMode (h : Header) : MirrorMode :=
  if h.fourScreen then .fourScreen
  else match h.mirroring with
    | .horizontal => .horizontal
    | .vertical => .vertical

end Sys2Proof.Machine
end

