-- ==== Sys2Proof/Machine/Flags.lean ====
section
/-! DEFINITION. Flags.lean: the status flags and the one-bit conditions (spec/10_state.md R38): what sets, clears and
reads each. -/

namespace Sys2Proof.Machine

/-- The byte a status read returns (R143, R233): bits 4 to 0 are 0. -/
def statusByte (p : Ppu) : Byte :=
  (if p.vblank then 0x80#8 else 0) ||| (if p.sprite0Hit then 0x40#8 else 0) ||| (if p.overflow then 0x20#8 else 0)

/-- A status read clears the vertical-blank flag and the toggle (R233). -/
def Ppu.afterStatusRead (p : Ppu) : Ppu := { p with vblank := false, w := false }

/-- `FLAGS.CLR` (R306). -/
def Ppu.clearFlags (p : Ppu) : Ppu := { p with vblank := false, sprite0Hit := false, overflow := false }

/-- A background pixel: 2-bit pattern value and palette selector (R273). -/
structure BgPixel where
  p : BitVec 2
  s : BitVec 2
  deriving DecidableEq, Repr

/-- A sprite pixel: pattern value, palette, priority, and whether it belongs to OAM entry 0 (R274). -/
structure SpPixel where
  p : BitVec 2
  q : BitVec 2
  behind : Bool
  isZero : Bool
  deriving DecidableEq, Repr

/-- The sprite-0 condition of R276. -/
def hitCondition (bg : BgPixel) (sp : SpPixel) : Bool := bg.p != 0 && sp.p != 0 && sp.isZero

/-- The sticky sprite-0 hit flag after a pixel (R276): set only. -/
def hitAfter (p : Ppu) (bg : BgPixel) (sp : SpPixel) : Bool := p.sprite0Hit || hitCondition bg sp

end Sys2Proof.Machine
end

