-- ==== Sys2Proof/Machine/Ops.lean ====
section
/-! DEFINITION. Ops.lean: the shared operations over the Machine's parts: one updater for each part, the open-bus latch
(spec/40_system_bus.md R181, R182, R195), the controller latches (R197, R198), the interrupt lines
(spec/44_cpu_driver.md R394, R395, R402), the failure of a command (spec/60_exceptions.md R471), and the answers of
operations. -/

namespace Sys2Proof.Machine

/-! ## Updaters -/

def Mach.setCore (m : Mach) (v : Opaque) : Mach := { m with core := v }
def Mach.setCpu (m : Mach) (v : Cpu) : Mach := { m with cpu := v }
def Mach.setDma (m : Mach) (v : Dma) : Mach := { m with dma := v }
def Mach.setBus (m : Mach) (v : Bus) : Mach := { m with bus := v }
def Mach.setPpu (m : Mach) (v : Ppu) : Mach := { m with ppu := v }
def Mach.setCart (m : Mach) (v : Option Cartridge) : Mach := { m with cart := v }
def Mach.setPad0 (m : Mach) (v : Pad) : Mach := { m with pad0 := v }
def Mach.setPad1 (m : Mach) (v : Pad) : Mach := { m with pad1 := v }
def Mach.setAudio (m : Mach) (v : Opaque) : Mach := { m with audio := v }

/-- The controller latch of a port (R26). -/
def Mach.pad (m : Mach) (p : Port) : Pad :=
  match p with
  | .one => m.pad0
  | .two => m.pad1

/-- The Machine with the controller latch of a port replaced. -/
def Mach.setPad (m : Mach) (p : Port) (v : Pad) : Mach :=
  match p with
  | .one => m.setPad0 v
  | .two => m.setPad1 v

/-! ## The open-bus latch (R195) -/

/-- The latch takes a value. -/
def Mach.setOpenBus (m : Mach) (b : Byte) : Mach := m.setBus { m.bus with openBus := b }

/-- A CPU-side read puts the value it returns on the latch, after the operation (R181). -/
def latchRead (r : Byte × Mach) : Byte × Mach := (r.1, r.2.setOpenBus r.1)

/-! ## Controller latches -/

/-- The strobe write of R197 on one latch. -/
def strobePad (d : Byte) (p : Pad) : Pad :=
  if d.getLsbD 0 then { p with strobe := true, snapshot := p.live, index := 0 }
  else { p with strobe := false }

/-- The serial read of R198 on one latch: the bit, and the latch after. -/
def readPad (p : Pad) : Bool × Pad :=
  if p.strobe then (p.snapshot.getLsbD 0, p)
  else if p.index < 8 then (p.snapshot.getLsbD p.index, { p with index := p.index + 1 })
  else (true, p)

/-! ## Interrupt lines

The CORE's part of taking an interrupt: the PPU latches the NMI edge, the driver samples the IRQ level at the start of
every CPU cycle, and both are presented to the instruction core at a core step, which clears the latch it was shown.
Entry and return are made of the core's own bus accesses (R482, R483). -/

/-- `AssertNmi()` (R402). -/
def assertNmi (m : Mach) : Mach := m.setCpu { m.cpu with nmiPending := true }

/-- The lines as presented to a core step (R387). -/
def coreInput (m : Mach) : CoreIn := { nmi := m.cpu.nmiPending, irq := m.cpu.irqLine }

/-- The latch after a step that was presented `input` (R395). -/
def nmiAfter (input : CoreIn) (pending : Bool) : Bool := if input.nmi then false else pending

/-! ## Failures and answers -/

/-- `fail <Error>` (R471): the Machine is exactly as before, and the command returns failure. -/
def fail (e : HostError) (m : Mach) : Result × Mach := (.failure e, m)

/-- The state after an operation that answers `r` and leaves the Machine at `m`. -/
def State.answer (s : State) (r : Result) (m : Mach) : State := { s with machine := m, result := r }

/-- The outcome of a CPU-side read transaction (R181): the value is answered and put on the latch. -/
def answerRead (s : State) (r : Byte × Mach) : Host.Outcome State Fault Refusal :=
  .next (s.answer (.byte r.1) (latchRead r).2)

/-- The outcome of a CPU-side write transaction of `d` (R182): the latch takes `d` before the operation. -/
def answerWrite (s : State) (d : Byte) (op : Mach → Mach) : Host.Outcome State Fault Refusal :=
  .next (s.answer .none (op (s.machine.setOpenBus d)))

/-- The outcome of a PPU-side read (R250). -/
def answerPpuRead (s : State) (r : Byte × Mach) : Host.Outcome State Fault Refusal :=
  .next (s.answer (.byte r.1) r.2)

/-- The outcome of an operation that changes the Machine and returns nothing. -/
def answerMach (s : State) (m : Mach) : Host.Outcome State Fault Refusal := .next (s.answer .none m)

end Sys2Proof.Machine
end

