-- ==== Sys2Proof/Machine/Mappers.lean ====
section
/-! DEFINITION. Mappers.lean: the capability set of a cartridge (spec/43_cartridge_mapper.md R340 to R365): the three
reference variants, a further variant, mirroring and IRQ; and the meanings of the MAPPER operations. -/

namespace Sys2Proof.Machine

/-! ## Reference variants -/

/-- The offset in `prg_ram` of an address in 0x6000 to 0x7FFF (R350). -/
def prgRamIndex (c : Cfg) (a : Addr) : Nat := (a.toNat - 0x6000) % c.prgRamSize

/-- 0x6000 to 0x7FFF: the work RAM window (R350). -/
def inPrgRam (a : Addr) : Bool := 0x6000 ≤ a.toNat && a.toNat < 0x8000

/-- A read of the common window layout (R350), with the program-ROM offset the variant's banking gives. -/
def windowRead (c : Cfg) (k : Cartridge) (rom : Nat) (a : Addr) : Option Byte :=
  if a.toNat < 0x6000 then none
  else if a.toNat < 0x8000 then some (Memory.read k.prgRam (prgRamIndex c a))
  else some (Memory.read k.prgRom rom)

/-- A store to the work RAM (R350). -/
def prgRamWrite (c : Cfg) (k : Cartridge) (a : Addr) (d : Byte) : Cartridge :=
  { k with prgRam := Memory.write k.prgRam (prgRamIndex c a) d }

/-- A read of graphics memory at the offset the variant's banking gives; an address from 0x2000 on is unmapped
(R135). -/
def chrRead (k : Cartridge) (offset : Nat) (a : PpuAddr) : Option Byte :=
  if a.toNat < 0x2000 then some (Memory.read k.chr offset) else none

/-- A store to graphics RAM; graphics ROM drops it (R354), and so does an address from 0x2000 on (R135). -/
def chrWrite (k : Cartridge) (a : PpuAddr) (d : Byte) : Cartridge :=
  if k.chrIsRam && decide (a.toNat < 0x2000) then { k with chr := Memory.write k.chr a.toNat d } else k

/-- Program-ROM offset with fixed banks (R351). -/
def fixedRom (k : Cartridge) (a : Addr) : Nat :=
  (a.toNat - 0x8000) % (k.header.prgBanks.toNat * Config.prgBank)

/-- Program-ROM offset with one switchable bank and the last bank fixed (R355). -/
def switchedRom (k : Cartridge) (bank : Byte) (a : Addr) : Nat :=
  if a.toNat < 0xC000 then
    (bank.toNat % k.header.prgBanks.toNat) * Config.prgBank + (a.toNat - 0x8000)
  else (k.header.prgBanks.toNat - 1) * Config.prgBank + (a.toNat - 0xC000)

/-- Graphics offset with one switchable bank (R360). -/
def switchedChr (k : Cartridge) (bank : Byte) (a : PpuAddr) : Nat :=
  (bank.toNat % max k.header.chrBanks.toNat 1) * Config.chrBank + a.toNat

/-- `Nrom` `cpu_read` (R351). -/
def nromCpuRead (c : Cfg) (k : Cartridge) (a : Addr) : Option Byte := windowRead c k (fixedRom k a) a

/-- `Nrom` `cpu_write` (R352). -/
def nromCpuWrite (c : Cfg) (k : Cartridge) (a : Addr) (d : Byte) : Cartridge :=
  if inPrgRam a then prgRamWrite c k a d else k

/-- `Nrom` `ppu_read` (R353). -/
def nromPpuRead (k : Cartridge) (a : PpuAddr) : Option Byte := chrRead k a.toNat a

/-- `Nrom` `ppu_write` (R354). -/
def nromPpuWrite (k : Cartridge) (a : PpuAddr) (d : Byte) : Cartridge := chrWrite k a d

/-- `Uxrom` `cpu_read` (R355). -/
def uxromCpuRead (c : Cfg) (k : Cartridge) (bank : Byte) (a : Addr) : Option Byte :=
  windowRead c k (switchedRom k bank a) a

/-- `Uxrom` `cpu_write` (R356). -/
def uxromCpuWrite (c : Cfg) (k : Cartridge) (a : Addr) (d : Byte) : Cartridge :=
  if inPrgRam a then prgRamWrite c k a d
  else if 0x8000 ≤ a.toNat then { k with mapper := .uxrom d }
  else k

/-- `Uxrom` `ppu_read` (R357). -/
def uxromPpuRead (k : Cartridge) (a : PpuAddr) : Option Byte := chrRead k a.toNat a

/-- `Uxrom` `ppu_write` (R357). -/
def uxromPpuWrite (k : Cartridge) (a : PpuAddr) (d : Byte) : Cartridge := chrWrite k a d

/-- `Cnrom` `cpu_read` (R358). -/
def cnromCpuRead (c : Cfg) (k : Cartridge) (a : Addr) : Option Byte := windowRead c k (fixedRom k a) a

/-- `Cnrom` `cpu_write` (R359). -/
def cnromCpuWrite (c : Cfg) (k : Cartridge) (a : Addr) (d : Byte) : Cartridge :=
  if inPrgRam a then prgRamWrite c k a d
  else if 0x8000 ≤ a.toNat then { k with mapper := .cnrom d }
  else k

/-- `Cnrom` `ppu_read` (R360). -/
def cnromPpuRead (k : Cartridge) (bank : Byte) (a : PpuAddr) : Option Byte :=
  chrRead k (switchedChr k bank a) a

/-- `Cnrom` `ppu_write` (R361). -/
def cnromPpuWrite (k : Cartridge) (a : PpuAddr) (d : Byte) : Cartridge := chrWrite k a d

/-! ## A further variant (R340, R363, R364) -/

/-- What a capability sees of the cartridge (R340). -/
def Cartridge.view (k : Cartridge) (regs : Opaque) : CartView :=
  { header := k.header, prgRom := k.prgRom, prgRam := k.prgRam, chr := k.chr, chrIsRam := k.chrIsRam, regs := regs }

/-- `cpu_read` of a further variant: it may change its registers. -/
def furtherCpuRead (c : Cfg) (k : Cartridge) (id : Byte) (regs : Opaque) (a : Addr) : Option Byte × Cartridge :=
  match c.furtherVariant id with
  | none => (none, k)
  | some v =>
    let r := v.cpuRead (k.view regs) a
    (r.1, { k with mapper := .further id r.2 })

/-- `cpu_write` of a further variant: it may change its registers and `prg_ram`. -/
def furtherCpuWrite (c : Cfg) (k : Cartridge) (id : Byte) (regs : Opaque) (a : Addr) (d : Byte) : Cartridge :=
  match c.furtherVariant id with
  | none => k
  | some v =>
    let r := v.cpuWrite (k.view regs) a d
    { k with mapper := .further id r.1
             prgRam := Memory.writeAll k.prgRam (r.2.map (fun e => (e.1 % c.prgRamSize, e.2))) }

/-- `ppu_read` of a further variant: it may change its registers. -/
def furtherPpuRead (c : Cfg) (k : Cartridge) (id : Byte) (regs : Opaque) (a : PpuAddr) : Option Byte × Cartridge :=
  match c.furtherVariant id with
  | none => (none, k)
  | some v =>
    let r := v.ppuRead (k.view regs) a
    (r.1, { k with mapper := .further id r.2 })

/-- `ppu_write` of a further variant: it may change its registers and a RAM `chr`, which has one bank. -/
def furtherPpuWrite (c : Cfg) (k : Cartridge) (id : Byte) (regs : Opaque) (a : PpuAddr) (d : Byte) : Cartridge :=
  match c.furtherVariant id with
  | none => k
  | some v =>
    let r := v.ppuWrite (k.view regs) a d
    { k with mapper := .further id r.1
             chr := if k.chrIsRam then Memory.writeAll k.chr (r.2.map (fun e => (e.1 % Config.chrBank, e.2)))
                    else k.chr }

/-! ## The capability calls (R345 to R349, R362) -/

/-- The variant's `cpu_read` (R345). -/
def mapCpuRead (c : Cfg) (k : Cartridge) (a : Addr) : Option Byte × Cartridge :=
  match k.mapper with
  | .nrom => (nromCpuRead c k a, k)
  | .uxrom bank => (uxromCpuRead c k bank a, k)
  | .cnrom _ => (cnromCpuRead c k a, k)
  | .further id regs => furtherCpuRead c k id regs a

/-- The variant's `cpu_write` (R346). -/
def mapCpuWrite (c : Cfg) (k : Cartridge) (a : Addr) (d : Byte) : Cartridge :=
  match k.mapper with
  | .nrom => nromCpuWrite c k a d
  | .uxrom _ => uxromCpuWrite c k a d
  | .cnrom _ => cnromCpuWrite c k a d
  | .further id regs => furtherCpuWrite c k id regs a d

/-- The variant's `ppu_read` (R347). -/
def mapPpuRead (c : Cfg) (k : Cartridge) (a : PpuAddr) : Option Byte × Cartridge :=
  match k.mapper with
  | .nrom => (nromPpuRead k a, k)
  | .uxrom _ => (uxromPpuRead k a, k)
  | .cnrom bank => (cnromPpuRead k bank a, k)
  | .further id regs => furtherPpuRead c k id regs a

/-- The variant's `ppu_write` (R348). -/
def mapPpuWrite (c : Cfg) (k : Cartridge) (a : PpuAddr) (d : Byte) : Cartridge :=
  match k.mapper with
  | .nrom => nromPpuWrite k a d
  | .uxrom _ => uxromPpuWrite k a d
  | .cnrom _ => cnromPpuWrite k a d
  | .further id regs => furtherPpuWrite c k id regs a d

/-- `MapIrqPending()` (R349): false without a cartridge or without the capability, else what the variant's registers
say, and nothing but them (R363). -/
def mapIrqPending (c : Cfg) (cart : Option Cartridge) : Bool :=
  match cart with
  | none => false
  | some k =>
    match k.mapper with
    | .nrom => false
    | .uxrom _ => false
    | .cnrom _ => false
    | .further id regs =>
      match c.furtherVariant id with
      | none => false
      | some v =>
        match v.irqPending with
        | none => false
        | some f => f regs

/-- `MirrorMode()` (R362): `Horizontal` without a cartridge, the mode the variant's registers select if it controls
mirroring, else the header's. -/
def mapMirrorMode (c : Cfg) (cart : Option Cartridge) : MirrorMode :=
  match cart with
  | none => .horizontal
  | some k =>
    match k.mapper with
    | .nrom => headerMode k.header
    | .uxrom _ => headerMode k.header
    | .cnrom _ => headerMode k.header
    | .further id regs =>
      match c.furtherVariant id with
      | none => headerMode k.header
      | some v =>
        match v.mirroring with
        | none => headerMode k.header
        | some f => f regs

/-- The initial registers of the variant for a mapper id (R37), or none when the id has no known variant. -/
def initialMapper (c : Cfg) (id : Byte) : Option Mapper :=
  if id = 0 then some .nrom
  else if id = 2 then some (.uxrom 0)
  else if id = 3 then some (.cnrom 0)
  else match c.furtherVariant id with
    | none => none
    | some v => some (.further id v.init)

/-- A variant's registers back at their initial value (R511). -/
def resetMapper (c : Cfg) (mp : Mapper) : Mapper :=
  match mp with
  | .nrom => .nrom
  | .uxrom _ => .uxrom 0
  | .cnrom _ => .cnrom 0
  | .further id regs =>
    match c.furtherVariant id with
    | none => .further id regs
    | some v => .further id v.init

/-! ## Meanings of the MAPPER operations

A capability of a named variant is called on the inserted cartridge; where the inserted cartridge is not of that
variant there is no such call, and the operation is refused by name (log 14). -/

/-- A capability read: it answers the optional byte and changes nothing. -/
def capRead (s : State) (f : Cartridge → Option (Option Byte)) : Host.Outcome State Fault Refusal :=
  match s.machine.cart with
  | none => .refused .variantNotInserted
  | some k =>
    match f k with
    | none => .refused .variantNotInserted
    | some b => .next (s.answer (.optByte b) s.machine)

/-- A capability write: the returned cartridge is stored. -/
def capWrite (s : State) (f : Cartridge → Option Cartridge) : Host.Outcome State Fault Refusal :=
  match s.machine.cart with
  | none => .refused .variantNotInserted
  | some k =>
    match f k with
    | none => .refused .variantNotInserted
    | some k' => .next (s.answer .none (s.machine.setCart (some k')))

/-- `NROM.cpu_read` (R351). -/
def execNromCpuRead (a : Addr) (s : State) : Host.Outcome State Fault Refusal :=
  capRead s fun k => match k.mapper with
    | .nrom => some (nromCpuRead Config.cfg k a)
    | _ => none

/-- `NROM.cpu_write` (R352). -/
def execNromCpuWrite (a : Addr) (d : Byte) (s : State) : Host.Outcome State Fault Refusal :=
  capWrite s fun k => match k.mapper with
    | .nrom => some (nromCpuWrite Config.cfg k a d)
    | _ => none

/-- `NROM.ppu_read` (R353). -/
def execNromPpuRead (a : PpuAddr) (s : State) : Host.Outcome State Fault Refusal :=
  capRead s fun k => match k.mapper with
    | .nrom => some (nromPpuRead k a)
    | _ => none

/-- `NROM.ppu_write` (R354). -/
def execNromPpuWrite (a : PpuAddr) (d : Byte) (s : State) : Host.Outcome State Fault Refusal :=
  capWrite s fun k => match k.mapper with
    | .nrom => some (nromPpuWrite k a d)
    | _ => none

/-- `UXROM.cpu_read` (R355). -/
def execUxromCpuRead (a : Addr) (s : State) : Host.Outcome State Fault Refusal :=
  capRead s fun k => match k.mapper with
    | .uxrom bank => some (uxromCpuRead Config.cfg k bank a)
    | _ => none

/-- `UXROM.cpu_write` (R356). -/
def execUxromCpuWrite (a : Addr) (d : Byte) (s : State) : Host.Outcome State Fault Refusal :=
  capWrite s fun k => match k.mapper with
    | .uxrom _ => some (uxromCpuWrite Config.cfg k a d)
    | _ => none

/-- `UXROM.ppu_read` (R357). -/
def execUxromPpuRead (a : PpuAddr) (s : State) : Host.Outcome State Fault Refusal :=
  capRead s fun k => match k.mapper with
    | .uxrom _ => some (uxromPpuRead k a)
    | _ => none

/-- `UXROM.ppu_write` (R357). -/
def execUxromPpuWrite (a : PpuAddr) (d : Byte) (s : State) : Host.Outcome State Fault Refusal :=
  capWrite s fun k => match k.mapper with
    | .uxrom _ => some (uxromPpuWrite k a d)
    | _ => none

/-- `CNROM.cpu_read` (R358). -/
def execCnromCpuRead (a : Addr) (s : State) : Host.Outcome State Fault Refusal :=
  capRead s fun k => match k.mapper with
    | .cnrom _ => some (cnromCpuRead Config.cfg k a)
    | _ => none

/-- `CNROM.cpu_write` (R359). -/
def execCnromCpuWrite (a : Addr) (d : Byte) (s : State) : Host.Outcome State Fault Refusal :=
  capWrite s fun k => match k.mapper with
    | .cnrom _ => some (cnromCpuWrite Config.cfg k a d)
    | _ => none

/-- `CNROM.ppu_read` (R360). -/
def execCnromPpuRead (a : PpuAddr) (s : State) : Host.Outcome State Fault Refusal :=
  capRead s fun k => match k.mapper with
    | .cnrom bank => some (cnromPpuRead k bank a)
    | _ => none

/-- `CNROM.ppu_write` (R361). -/
def execCnromPpuWrite (a : PpuAddr) (d : Byte) (s : State) : Host.Outcome State Fault Refusal :=
  capWrite s fun k => match k.mapper with
    | .cnrom _ => some (cnromPpuWrite k a d)
    | _ => none

/-- `MIRRORMODE` (R362). -/
def execMirrorMode (s : State) : Host.Outcome State Fault Refusal :=
  .next (s.answer (.mode (mapMirrorMode Config.cfg s.machine.cart)) s.machine)

/-- `IRQ.PENDING` (R349). -/
def execIrqPending (s : State) : Host.Outcome State Fault Refusal :=
  .next (s.answer (.level (mapIrqPending Config.cfg s.machine.cart)) s.machine)

end Sys2Proof.Machine
end

