-- ==== Sys2Proof/Machine/PpuMemory.lean ====
section
/-! DEFINITION. PpuMemory.lean: the PPU-side memory (spec/41_ppu_registers.md R250 to R257) and the meanings of the
PPUBUS operations. -/

namespace Sys2Proof.Machine

/-- `PATTERN.RD` (R252): 0x00 without a cartridge or where the variant maps nothing. -/
def patternRead (c : Cfg) (a : PpuAddr) (m : Mach) : Byte × Mach :=
  match m.cart with
  | none => (0x00, m)
  | some k =>
    let r := mapPpuRead c k a
    (r.1.getD 0x00, m.setCart (some r.2))

/-- `PATTERN.WR` (R252). -/
def patternWrite (c : Cfg) (a : PpuAddr) (d : Byte) (m : Mach) : Mach :=
  match m.cart with
  | none => m
  | some k => m.setCart (some (mapPpuWrite c k a d))

/-- The index in nametable RAM an address reaches (R253). -/
def ntIndex (c : Cfg) (a : PpuAddr) (m : Mach) : Nat := ntMap (mapMirrorMode c m.cart) a

/-- `NAMETABLE.RD` (R253). -/
def nametableRead (c : Cfg) (a : PpuAddr) (m : Mach) : Byte := Memory.read m.ppu.vram (ntIndex c a m)

/-- `NAMETABLE.WR` (R253). -/
def nametableWrite (c : Cfg) (a : PpuAddr) (d : Byte) (m : Mach) : Mach :=
  m.setPpu { m.ppu with vram := Memory.write m.ppu.vram (ntIndex c a m) d }

/-- `PALETTE.RD` (R254). -/
def paletteRead (a : PpuAddr) (m : Mach) : Byte := (Memory.read m.ppu.palette (palIndex a)).setWidth 8

/-- `PALETTE.WR` (R255): bits 7 and 6 of `d` are dropped. -/
def paletteWrite (a : PpuAddr) (d : Byte) (m : Mach) : Mach :=
  m.setPpu { m.ppu with palette := Memory.write m.ppu.palette (palIndex a) (d.setWidth 6) }

/-- `PpuRead(a)` (R250). -/
def ppuRead (c : Cfg) (a : PpuAddr) (m : Mach) : Byte × Mach :=
  match ppuRegion a with
  | .pattern => patternRead c a m
  | .palette => (paletteRead a m, m)
  | .nametable => (nametableRead c a m, m)

/-- `PpuWrite(a, d)` (R251). -/
def ppuWrite (c : Cfg) (a : PpuAddr) (d : Byte) (m : Mach) : Mach :=
  match ppuRegion a with
  | .pattern => patternWrite c a d m
  | .palette => paletteWrite a d m
  | .nametable => nametableWrite c a d m

/-! ## Meanings -/

/-- `PATTERN.RD` (R252). -/
def execPatternRd (a : PpuAddr) (s : State) : Host.Outcome State Fault Refusal :=
  answerPpuRead s (patternRead Config.cfg a s.machine)

/-- `PATTERN.WR` (R252). -/
def execPatternWr (a : PpuAddr) (d : Byte) (s : State) : Host.Outcome State Fault Refusal :=
  answerMach s (patternWrite Config.cfg a d s.machine)

/-- `PALETTE.RD` (R254). -/
def execPaletteRd (a : PpuAddr) (s : State) : Host.Outcome State Fault Refusal :=
  answerPpuRead s (paletteRead a s.machine, s.machine)

/-- `PALETTE.WR` (R255). -/
def execPaletteWr (a : PpuAddr) (d : Byte) (s : State) : Host.Outcome State Fault Refusal :=
  answerMach s (paletteWrite a d s.machine)

/-- `NAMETABLE.RD` (R253). -/
def execNametableRd (a : PpuAddr) (s : State) : Host.Outcome State Fault Refusal :=
  answerPpuRead s (nametableRead Config.cfg a s.machine, s.machine)

/-- `NAMETABLE.WR` (R253). -/
def execNametableWr (a : PpuAddr) (d : Byte) (s : State) : Host.Outcome State Fault Refusal :=
  answerMach s (nametableWrite Config.cfg a d s.machine)

end Sys2Proof.Machine
end

