-- ==== Sys2Proof/Machine/DotMachine.lean ====
section
/-! DEFINITION. DotMachine.lean: the picture generator's dot machine (spec/42_ppu_dot_machine.md): the pixel, the
background pipeline, the sprites, the flags, the position, one dot (R270); and the meanings of the DOT operations. -/

namespace Sys2Proof.Machine

/-! ## The pixel (R273 to R277) -/

/-- Two bits, high first. -/
def bit2 (hi lo : Bool) : BitVec 2 := BitVec.ofBool hi ++ BitVec.ofBool lo

/-- The background pixel of screen column `x` (R273). -/
def bgPixel (p : Ppu) (x : Nat) : BgPixel :=
  if maskShowBg p.mask && (maskBgLeft p.mask || 8 ≤ x) then
    let b := 15 - p.x.toNat
    { p := bit2 (p.bgHi.getLsbD b) (p.bgLo.getLsbD b), s := bit2 (p.atHi.getLsbD b) (p.atLo.getLsbD b) }
  else { p := 0, s := 0 }

/-- No sprite pixel. -/
def SpPixel.transparent : SpPixel := { p := 0, q := 0, behind := false, isZero := false }

/-- The pattern value of a unit at column `x`; 0 outside its eight columns (R274). -/
def unitPixel (u : SpriteUnit) (x : Nat) : BitVec 2 :=
  if u.x.toNat ≤ x ∧ x ≤ u.x.toNat + 7 then
    let off := x - u.x.toNat
    bit2 (u.hi.getLsbD (7 - off)) (u.lo.getLsbD (7 - off))
  else 0

/-- The first opaque pixel of a list of units, the first of which has index `i` (R274). -/
def firstOpaque (spZero : Bool) (x : Nat) : Nat → List SpriteUnit → SpPixel
  | _, [] => SpPixel.transparent
  | i, u :: us =>
    if unitPixel u x ≠ 0 then
      { p := unitPixel u x, q := attrPalette u.attr, behind := attrBehind u.attr, isZero := i == 0 && spZero }
    else firstOpaque spZero x (i + 1) us

/-- The sprite pixel of screen column `x` (R274). -/
def spPixel (p : Ppu) (x : Nat) : SpPixel :=
  if maskShowSp p.mask && (maskSpLeft p.mask || 8 ≤ x) then
    firstOpaque p.spZero x 0 (p.sp.take p.spCount)
  else SpPixel.transparent

/-- The palette entry shown (R275). -/
def composeEntry (bg : BgPixel) (sp : SpPixel) : Nat :=
  if bg.p = 0 ∧ sp.p = 0 then 0
  else if sp.p ≠ 0 ∧ (bg.p = 0 ∨ sp.behind = false) then 0x10 + 4 * sp.q.toNat + sp.p.toNat
  else 4 * bg.s.toNat + bg.p.toNat

/-- Grayscale (R277). -/
def grayed (mask : Byte) (idx : Color) : Color := if maskGray mask then idx &&& 0x30 else idx

/-- The colour index of screen column `x` (R273 to R277). -/
def pixelColor (p : Ppu) (x : Nat) : Color :=
  grayed p.mask (Memory.read p.palette (composeEntry (bgPixel p x) (spPixel p x)))

/-- The frame-buffer entry of pixel `(x, y)` (R35). -/
def fbIndex (c : Cfg) (x y : Nat) : Nat := y * c.fbW + x

/-- `PIXEL` (R273 to R277) at screen column `cycle - 1` of row `scanline`. -/
def pixel (c : Cfg) (m : Mach) : Mach :=
  let p := m.ppu
  let x := p.cycle - 1
  m.setPpu { p with
    sprite0Hit := hitAfter p (bgPixel p x) (spPixel p x)
    fb := Memory.write p.fb (fbIndex c x p.scanline) (pixelColor p x) }

/-! ## Background pipeline (R278 to R288) -/

/-- `BG.SHIFT` (R278). -/
def bgShift (m : Mach) : Mach :=
  m.setPpu { m.ppu with bgLo := m.ppu.bgLo <<< 1, bgHi := m.ppu.bgHi <<< 1
                        atLo := m.ppu.atLo <<< 1, atHi := m.ppu.atHi <<< 1 }

/-- `BG.FETCH.NT` (R279). -/
def bgFetchNt (c : Cfg) (m : Mach) : Mach :=
  let r := ppuRead c (ntAddr m.ppu.v) m
  r.2.setPpu { r.2.ppu with ntByte := r.1 }

/-- `BG.FETCH.AT` (R280). -/
def bgFetchAt (c : Cfg) (m : Mach) : Mach :=
  let r := ppuRead c (atAddr m.ppu.v) m
  r.2.setPpu { r.2.ppu with atBits := atSelect r.1 m.ppu.v }

/-- `BG.FETCH.LO` (R281). -/
def bgFetchLo (c : Cfg) (m : Mach) : Mach :=
  let r := ppuRead c (bgPatternAddr m.ppu.ctrl m.ppu.ntByte m.ppu.v) m
  r.2.setPpu { r.2.ppu with ptLo := r.1 }

/-- `BG.FETCH.HI` (R282). -/
def bgFetchHi (c : Cfg) (m : Mach) : Mach :=
  let r := ppuRead c (bgPatternAddr m.ppu.ctrl m.ppu.ntByte m.ppu.v + 8) m
  r.2.setPpu { r.2.ppu with ptHi := r.1 }

/-- `BG.RELOAD` (R283). -/
def bgReload (m : Mach) : Mach :=
  m.setPpu { m.ppu with
    bgLo := reloadLow m.ppu.bgLo m.ppu.ptLo
    bgHi := reloadLow m.ppu.bgHi m.ppu.ptHi
    atLo := reloadLow m.ppu.atLo (spread (m.ppu.atBits.getLsbD 0))
    atHi := reloadLow m.ppu.atHi (spread (m.ppu.atBits.getLsbD 1)) }

/-- `V.INCX` (R284). -/
def vIncX (m : Mach) : Mach := m.setPpu { m.ppu with v := incX m.ppu.v }

/-- `V.INCY` (R285). -/
def vIncY (m : Mach) : Mach := m.setPpu { m.ppu with v := incY m.ppu.v }

/-- `V.COPYX` (R286). -/
def vCopyX (m : Mach) : Mach := m.setPpu { m.ppu with v := copyX m.ppu.v m.ppu.t }

/-- `V.COPYY` (R287). -/
def vCopyY (m : Mach) : Mach := m.setPpu { m.ppu with v := copyY m.ppu.v m.ppu.t }

/-- `BG.DUMMYNT` (R288). -/
def bgDummyNt (c : Cfg) (m : Mach) : Mach :=
  let r := ppuRead c (ntAddr m.ppu.v) m
  r.2.setPpu { r.2.ppu with ntByte := r.1 }

/-! ## Sprites (R295 to R300) -/

/-- Byte `b` of OAM entry `e` (R150). -/
def oamByte (p : Ppu) (e b : Nat) : Byte := Memory.read p.oam (4 * e + b)

/-- OAM entry `e` is in range of the scanline being processed (R296). -/
def entryInRange (p : Ppu) (e : Nat) : Bool := spriteInRange p.ctrl p.scanline (oamByte p e 0)

/-- Load unit `n` from OAM entry `e`: two pattern reads, low plane first (R298), the flip (R299), the unit (R300). -/
def loadUnit (c : Cfg) (n e : Nat) (m : Mach) : Mach :=
  let tile := oamByte m.ppu e 1
  let attr := oamByte m.ppu e 2
  let x := oamByte m.ppu e 3
  let addr := spriteAddr m.ppu.ctrl tile attr (spriteRow m.ppu.scanline (oamByte m.ppu e 0)).toNat
  let lo := ppuRead c addr m
  let hi := ppuRead c (addr + 8) lo.2
  hi.2.setPpu { hi.2.ppu with
    sp := hi.2.ppu.sp.set n { x := x, attr := attr, lo := flipH attr lo.1, hi := flipH attr hi.1 } }

/-- The end of an evaluation (R297). -/
def setSprites (n : Nat) (zero : Bool) (m : Mach) : Mach :=
  m.setPpu { m.ppu with spCount := n, spZero := zero }

/-- The scan of R297 over a list of entries, `n` units loaded so far. -/
def spScan (c : Cfg) : List Nat → Nat → Bool → Mach → Mach
  | [], n, zero, m => setSprites n zero m
  | e :: es, n, zero, m =>
    if entryInRange m.ppu e then
      if n < Config.spritesPerLine then spScan c es (n + 1) (zero || e == 0) (loadUnit c n e m)
      else setSprites n zero (m.setPpu { m.ppu with overflow := true })
    else spScan c es n zero m

/-- `SP.LOAD` (R297). -/
def spLoad (c : Cfg) (m : Mach) : Mach := spScan c (List.range Config.oamEntries) 0 false m

/-- `SP.CLEAR` (R300). -/
def spClear (m : Mach) : Mach := setSprites 0 false m

/-! ## Flags and position (R305 to R308) -/

/-- `VBL.SET` (R305). -/
def vblSet (m : Mach) : Mach :=
  let m' := m.setPpu { m.ppu with vblank := true }
  if ctrlNmiEnable m.ppu.ctrl then assertNmi m' else m'

/-- `FLAGS.CLR` (R306). -/
def flagsClr (m : Mach) : Mach := m.setPpu m.ppu.clearFlags

/-- `POS.ADVANCE` (R307). -/
def posAdvance (m : Mach) : Mach :=
  let p := m.ppu
  if p.cycle < 340 then m.setPpu { p with cycle := p.cycle + 1 }
  else if p.scanline < 261 then m.setPpu { p with cycle := 0, scanline := p.scanline + 1 }
  else m.setPpu { p with cycle := 0, scanline := 0, frame := p.frame + 1 }

/-- `POS.SKIP` (R308). -/
def posSkip (m : Mach) : Mach :=
  m.setPpu { m.ppu with cycle := 0, scanline := 0, frame := m.ppu.frame + 1 }

/-! ## One dot (R270) -/

/-- A render line: 0 to 239, or 261 (R270). -/
def renderLine (s : Nat) : Bool := s ≤ 239 || s == 261

/-- A dot of the fetch pipeline: 1 to 256, or 321 to 336 (R270). -/
def fetchDot (cy : Nat) : Bool := (1 ≤ cy && cy ≤ 256) || (321 ≤ cy && cy ≤ 336)

/-- Step 1 of R270: the flag events. -/
def dotFlags (s cy : Nat) (m : Mach) : Mach :=
  let m := if s = 241 ∧ cy = 1 then vblSet m else m
  if s = 261 ∧ cy = 1 then flagsClr m else m

/-- Step 2 of R270: the pixel. -/
def dotPixel (c : Cfg) (s cy : Nat) (m : Mach) : Mach :=
  if s ≤ 239 ∧ 1 ≤ cy ∧ cy ≤ 256 then pixel c m else m

/-- The fetch or reload of the eight-dot pattern (R270). -/
def dotFetch (c : Cfg) (cy : Nat) (m : Mach) : Mach :=
  match cy % 8 with
  | 1 => bgFetchNt c m
  | 3 => bgFetchAt c m
  | 5 => bgFetchLo c m
  | 7 => bgFetchHi c m
  | 0 => vIncX (bgReload m)
  | _ => m

/-- Step 3 of R270, on a render line with rendering on. -/
def dotPipeline (c : Cfg) (s cy : Nat) (m : Mach) : Mach :=
  let m := if fetchDot cy then dotFetch c cy (bgShift m) else m
  let m := if cy = 256 then vIncY m else m
  let m := if cy = 257 then vCopyX m else m
  let m := if s = 261 ∧ 280 ≤ cy ∧ cy ≤ 304 then vCopyY m else m
  if cy = 337 ∨ cy = 339 then bgDummyNt c m else m

/-- Step 4 of R270: the sprites of the next line. -/
def dotSprites (c : Cfg) (s cy : Nat) (render : Bool) (m : Mach) : Mach :=
  if renderLine s && cy == 257 then
    if s ≤ 239 && render then spLoad c m else spClear m
  else m

/-- Step 5 of R270: the position. -/
def dotPosition (m : Mach) : Mach :=
  if m.ppu.scanline = 261 ∧ m.ppu.cycle = 339 ∧ m.ppu.frame % 2 = 1 then posSkip m else posAdvance m

/-- `ppu_tick()` (R270). -/
def ppuTick (c : Cfg) (m : Mach) : Mach :=
  let s := m.ppu.scanline
  let cy := m.ppu.cycle
  let render := rendering m.ppu.mask
  let m := dotFlags s cy m
  let m := dotPixel c s cy m
  let m := if renderLine s && render then dotPipeline c s cy m else m
  let m := dotSprites c s cy render m
  dotPosition m

/-! ## Meanings -/

/-- `VBL.SET` (R305). -/
def execVblSet (s : State) : Host.Outcome State Fault Refusal := answerMach s (vblSet s.machine)

/-- `FLAGS.CLR` (R306). -/
def execFlagsClr (s : State) : Host.Outcome State Fault Refusal := answerMach s (flagsClr s.machine)

/-- `PIXEL` (R273 to R277). -/
def execPixel (s : State) : Host.Outcome State Fault Refusal := answerMach s (pixel Config.cfg s.machine)

/-- `BG.SHIFT` (R278). -/
def execBgShift (s : State) : Host.Outcome State Fault Refusal := answerMach s (bgShift s.machine)

/-- `BG.FETCH.NT` (R279). -/
def execBgFetchNt (s : State) : Host.Outcome State Fault Refusal := answerMach s (bgFetchNt Config.cfg s.machine)

/-- `BG.FETCH.AT` (R280). -/
def execBgFetchAt (s : State) : Host.Outcome State Fault Refusal := answerMach s (bgFetchAt Config.cfg s.machine)

/-- `BG.FETCH.LO` (R281). -/
def execBgFetchLo (s : State) : Host.Outcome State Fault Refusal := answerMach s (bgFetchLo Config.cfg s.machine)

/-- `BG.FETCH.HI` (R282). -/
def execBgFetchHi (s : State) : Host.Outcome State Fault Refusal := answerMach s (bgFetchHi Config.cfg s.machine)

/-- `BG.RELOAD` (R283). -/
def execBgReload (s : State) : Host.Outcome State Fault Refusal := answerMach s (bgReload s.machine)

/-- `V.INCX` (R284). -/
def execVIncX (s : State) : Host.Outcome State Fault Refusal := answerMach s (vIncX s.machine)

/-- `V.INCY` (R285). -/
def execVIncY (s : State) : Host.Outcome State Fault Refusal := answerMach s (vIncY s.machine)

/-- `V.COPYX` (R286). -/
def execVCopyX (s : State) : Host.Outcome State Fault Refusal := answerMach s (vCopyX s.machine)

/-- `V.COPYY` (R287). -/
def execVCopyY (s : State) : Host.Outcome State Fault Refusal := answerMach s (vCopyY s.machine)

/-- `BG.DUMMYNT` (R288). -/
def execBgDummyNt (s : State) : Host.Outcome State Fault Refusal := answerMach s (bgDummyNt Config.cfg s.machine)

/-- `SP.LOAD` (R295 to R300). -/
def execSpLoad (s : State) : Host.Outcome State Fault Refusal := answerMach s (spLoad Config.cfg s.machine)

/-- `SP.CLEAR` (R300). -/
def execSpClear (s : State) : Host.Outcome State Fault Refusal := answerMach s (spClear s.machine)

/-- `POS.ADVANCE` (R307). -/
def execPosAdvance (s : State) : Host.Outcome State Fault Refusal := answerMach s (posAdvance s.machine)

/-- `POS.SKIP` (R308). -/
def execPosSkip (s : State) : Host.Outcome State Fault Refusal := answerMach s (posSkip s.machine)

end Sys2Proof.Machine
end

