-- ==== Sys2Proof/Machine/PpuPorts.lean ====
section
/-! DEFINITION. PpuPorts.lean: the eight register ports of the picture generator (spec/41_ppu_registers.md R230 to R243)
and the meanings of the CPUBUS operations that select them. A meaning is a whole bus transaction, the open-bus latch
included (spec/40_system_bus.md R181, R182). -/

namespace Sys2Proof.Machine

/-- `PPUREG.RD.OPEN` (R242). -/
def openPortRead (m : Mach) : Byte × Mach := (m.bus.openBus, m)

/-- `PPUCTRL.WR` (R231). -/
def ctrlWrite (d : Byte) (m : Mach) : Mach :=
  m.setPpu { m.ppu with ctrl := d, t := ctrlToT m.ppu.t d }

/-- `PPUMASK.WR` (R232). -/
def maskWrite (d : Byte) (m : Mach) : Mach := m.setPpu { m.ppu with mask := d }

/-- `PPUSTATUS.RD` (R233). -/
def statusRead (m : Mach) : Byte × Mach := (statusByte m.ppu, m.setPpu m.ppu.afterStatusRead)

/-- `PPUSTATUS.WR` (R234): no effect. -/
def statusWrite (_d : Byte) (m : Mach) : Mach := m

/-- `OAMADDR.WR` (R235). -/
def oamAddrWrite (d : Byte) (m : Mach) : Mach := m.setPpu { m.ppu with oamAddr := d }

/-- `OAMDATA.RD` (R236): the address advances on a read too. -/
def oamDataRead (m : Mach) : Byte × Mach :=
  (Memory.read m.ppu.oam m.ppu.oamAddr.toNat, m.setPpu { m.ppu with oamAddr := m.ppu.oamAddr + 1 })

/-- A byte stored at the OAM address, which advances: `OAMDATA.WR` (R237) and the write half of the DMA engine
(R393). -/
def oamStore (d : Byte) (m : Mach) : Mach :=
  m.setPpu { m.ppu with oam := Memory.write m.ppu.oam m.ppu.oamAddr.toNat d, oamAddr := m.ppu.oamAddr + 1 }

/-- `PPUSCROLL.WR` (R238). -/
def scrollWrite (d : Byte) (m : Mach) : Mach :=
  if m.ppu.w then m.setPpu { m.ppu with t := scrollYToT m.ppu.t d, w := false }
  else m.setPpu { m.ppu with t := scrollXToT m.ppu.t d, x := d.extractLsb' 0 3, w := true }

/-- `PPUADDR.WR` (R239). -/
def addrWrite (d : Byte) (m : Mach) : Mach :=
  if m.ppu.w then
    m.setPpu { m.ppu with t := addrLoToT m.ppu.t d, v := addrLoToT m.ppu.t d, w := false }
  else m.setPpu { m.ppu with t := addrHiToT m.ppu.t d, w := true }

/-- The VRAM address after a data-port access (R243). -/
def advanceV (m : Mach) : Mach := m.setPpu { m.ppu with v := m.ppu.v + ctrlInc m.ppu.ctrl }

/-- `PPUDATA.RD` (R240). -/
def dataRead (c : Cfg) (m : Mach) : Byte × Mach :=
  let a := dataAddr m.ppu.v
  if a.toNat < 0x3F00 then
    let r := ppuRead c a m
    (m.ppu.readBuffer, advanceV (r.2.setPpu { r.2.ppu with readBuffer := r.1 }))
  else
    let r := ppuRead c a m
    let b := ppuRead c (a - 0x1000) r.2
    (r.1, advanceV (b.2.setPpu { b.2.ppu with readBuffer := b.1 }))

/-- `PPUDATA.WR` (R241). -/
def dataWrite (c : Cfg) (d : Byte) (m : Mach) : Mach :=
  advanceV (ppuWrite c (dataAddr m.ppu.v) d m)

/-! ## Meanings; the address only selects the port (R185, R186) -/

/-- `PPUREG.RD.OPEN` (R242). -/
def execPpuRegRdOpen (_a : Addr) (s : State) : Host.Outcome State Fault Refusal :=
  answerRead s (openPortRead s.machine)

/-- `PPUCTRL.WR` (R231). -/
def execPpuCtrlWr (_a : Addr) (d : Byte) (s : State) : Host.Outcome State Fault Refusal :=
  answerWrite s d (ctrlWrite d)

/-- `PPUMASK.WR` (R232). -/
def execPpuMaskWr (_a : Addr) (d : Byte) (s : State) : Host.Outcome State Fault Refusal :=
  answerWrite s d (maskWrite d)

/-- `PPUSTATUS.RD` (R233). -/
def execPpuStatusRd (_a : Addr) (s : State) : Host.Outcome State Fault Refusal :=
  answerRead s (statusRead s.machine)

/-- `PPUSTATUS.WR` (R234). -/
def execPpuStatusWr (_a : Addr) (d : Byte) (s : State) : Host.Outcome State Fault Refusal :=
  answerWrite s d (statusWrite d)

/-- `OAMADDR.WR` (R235). -/
def execOamAddrWr (_a : Addr) (d : Byte) (s : State) : Host.Outcome State Fault Refusal :=
  answerWrite s d (oamAddrWrite d)

/-- `OAMDATA.RD` (R236). -/
def execOamDataRd (_a : Addr) (s : State) : Host.Outcome State Fault Refusal :=
  answerRead s (oamDataRead s.machine)

/-- `OAMDATA.WR` (R237). -/
def execOamDataWr (_a : Addr) (d : Byte) (s : State) : Host.Outcome State Fault Refusal :=
  answerWrite s d (oamStore d)

/-- `PPUSCROLL.WR` (R238). -/
def execPpuScrollWr (_a : Addr) (d : Byte) (s : State) : Host.Outcome State Fault Refusal :=
  answerWrite s d (scrollWrite d)

/-- `PPUADDR.WR` (R239). -/
def execPpuAddrWr (_a : Addr) (d : Byte) (s : State) : Host.Outcome State Fault Refusal :=
  answerWrite s d (addrWrite d)

/-- `PPUDATA.RD` (R240). -/
def execPpuDataRd (_a : Addr) (s : State) : Host.Outcome State Fault Refusal :=
  answerRead s (dataRead Config.cfg s.machine)

/-- `PPUDATA.WR` (R241). -/
def execPpuDataWr (_a : Addr) (d : Byte) (s : State) : Host.Outcome State Fault Refusal :=
  answerWrite s d (dataWrite Config.cfg d)

end Sys2Proof.Machine
end

