-- ==== Sys2Proof/Machine/SystemBus.lean ====
section
/-! DEFINITION. SystemBus.lean: the CPU-side bus (spec/40_system_bus.md R180 to R202): every processor or DMA access goes
through `busRead` and `busWrite`; and the meanings of the CPUBUS operations other than the PPU ports. -/

namespace Sys2Proof.Machine

/-- The location of internal RAM an address reaches (R183): `a & 0x07FF`. -/
def ramIndex (a : Addr) : Nat := (a &&& 0x07FF).toNat

/-- `RAM.RD` (R183). -/
def ramRead (a : Addr) (m : Mach) : Byte × Mach := (Memory.read m.bus.ram (ramIndex a), m)

/-- `RAM.WR` (R184). -/
def ramWrite (a : Addr) (d : Byte) (m : Mach) : Mach :=
  m.setBus { m.bus with ram := Memory.write m.bus.ram (ramIndex a) d }

/-- `APU.RD` (R187). -/
def apuRead (c : Cfg) (a : Addr) (m : Mach) : Byte × Mach :=
  let r := c.audio.read m.audio a m.bus.openBus
  (r.1, m.setAudio r.2)

/-- `APU.WR` (R188). -/
def apuWrite (c : Cfg) (a : Addr) (d : Byte) (m : Mach) : Mach := m.setAudio (c.audio.write m.audio a d)

/-- `APU4017.WR` (R189). -/
def apu4017Write (c : Cfg) (d : Byte) (m : Mach) : Mach := m.setAudio (c.audio.write m.audio 0x4017 d)

/-- `OAMDMA.WR` (R191). -/
def oamDmaWrite (d : Byte) (m : Mach) : Mach := m.setDma { m.dma with page := d, request := true }

/-- `OAMDMA.RD` (R192): the open-bus latch. -/
def oamDmaRead (m : Mach) : Byte × Mach := (m.bus.openBus, m)

/-- `IO.UNMAPPED.RD` (R193): the open-bus latch. -/
def unmappedRead (m : Mach) : Byte × Mach := (m.bus.openBus, m)

/-- `IO.UNMAPPED.WR` (R194): no effect. -/
def unmappedWrite (_d : Byte) (m : Mach) : Mach := m

/-- `JOY.STROBE` (R197): both latches. -/
def joyStrobe (d : Byte) (m : Mach) : Mach := (m.setPad0 (strobePad d m.pad0)).setPad1 (strobePad d m.pad1)

/-- The serial read of a port (R198, R199). -/
def joyRead (p : Port) (m : Mach) : Byte × Mach :=
  let r := readPad (m.pad p)
  (bitByte r.1, m.setPad p r.2)

/-- `CART.RD` (R201): the open-bus latch without a cartridge or where the variant maps nothing. -/
def cartRead (c : Cfg) (a : Addr) (m : Mach) : Byte × Mach :=
  match m.cart with
  | none => (m.bus.openBus, m)
  | some k =>
    let r := mapCpuRead c k a
    (r.1.getD m.bus.openBus, m.setCart (some r.2))

/-- `CART.WR` (R202). -/
def cartWrite (c : Cfg) (a : Addr) (d : Byte) (m : Mach) : Mach :=
  match m.cart with
  | none => m
  | some k => m.setCart (some (mapCpuWrite c k a d))

/-- The read operation an address selects, without the latch. -/
def readTarget (c : Cfg) (a : Addr) (m : Mach) : Byte × Mach :=
  match cpuReadOp a with
  | .ram => ramRead a m
  | .regOpen => openPortRead m
  | .status => statusRead m
  | .oamData => oamDataRead m
  | .ppuData => dataRead c m
  | .dma => oamDmaRead m
  | .apu => apuRead c a m
  | .joy1 => joyRead .one m
  | .joy2 => joyRead .two m
  | .unmapped => unmappedRead m
  | .cart => cartRead c a m

/-- The write operation an address selects, without the latch. -/
def writeTarget (c : Cfg) (a : Addr) (d : Byte) (m : Mach) : Mach :=
  match cpuWriteOp a with
  | .ram => ramWrite a d m
  | .ctrl => ctrlWrite d m
  | .mask => maskWrite d m
  | .status => statusWrite d m
  | .oamAddr => oamAddrWrite d m
  | .oamData => oamStore d m
  | .scroll => scrollWrite d m
  | .addr => addrWrite d m
  | .ppuData => dataWrite c d m
  | .dma => oamDmaWrite d m
  | .apu => apuWrite c a d m
  | .strobe => joyStrobe d m
  | .apu4017 => apu4017Write c d m
  | .unmapped => unmappedWrite d m
  | .cart => cartWrite c a d m

/-- `BusRead(a)` (R181): the value of the selected operation, then the latch. -/
def busRead (c : Cfg) (a : Addr) (m : Mach) : Byte × Mach := latchRead (readTarget c a m)

/-- `BusWrite(a, d)` (R182): the latch, then the selected operation. -/
def busWrite (c : Cfg) (a : Addr) (d : Byte) (m : Mach) : Mach := writeTarget c a d (m.setOpenBus d)

/-! ## Meanings -/

/-- `RAM.RD` (R183). -/
def execRamRd (a : Addr) (s : State) : Host.Outcome State Fault Refusal :=
  answerRead s (ramRead a s.machine)

/-- `RAM.WR` (R184). -/
def execRamWr (a : Addr) (d : Byte) (s : State) : Host.Outcome State Fault Refusal :=
  answerWrite s d (ramWrite a d)

/-- `OAMDMA.RD` (R192). -/
def execOamDmaRd (s : State) : Host.Outcome State Fault Refusal :=
  answerRead s (oamDmaRead s.machine)

/-- `OAMDMA.WR` (R191). -/
def execOamDmaWr (d : Byte) (s : State) : Host.Outcome State Fault Refusal :=
  answerWrite s d (oamDmaWrite d)

/-- `APU.RD` (R187). -/
def execApuRd (a : Addr) (s : State) : Host.Outcome State Fault Refusal :=
  answerRead s (apuRead Config.cfg a s.machine)

/-- `APU.WR` (R188). -/
def execApuWr (a : Addr) (d : Byte) (s : State) : Host.Outcome State Fault Refusal :=
  answerWrite s d (apuWrite Config.cfg a d)

/-- `JOY1.RD` (R198). -/
def execJoy1Rd (s : State) : Host.Outcome State Fault Refusal :=
  answerRead s (joyRead .one s.machine)

/-- `JOY.STROBE` (R197). -/
def execJoyStrobe (d : Byte) (s : State) : Host.Outcome State Fault Refusal :=
  answerWrite s d (joyStrobe d)

/-- `JOY2.RD` (R199). -/
def execJoy2Rd (s : State) : Host.Outcome State Fault Refusal :=
  answerRead s (joyRead .two s.machine)

/-- `APU4017.WR` (R189). -/
def execApu4017Wr (d : Byte) (s : State) : Host.Outcome State Fault Refusal :=
  answerWrite s d (apu4017Write Config.cfg d)

/-- `IO.UNMAPPED.RD` (R193). -/
def execIoUnmappedRd (_a : Addr) (s : State) : Host.Outcome State Fault Refusal :=
  answerRead s (unmappedRead s.machine)

/-- `IO.UNMAPPED.WR` (R194). -/
def execIoUnmappedWr (_a : Addr) (d : Byte) (s : State) : Host.Outcome State Fault Refusal :=
  answerWrite s d (unmappedWrite d)

/-- `CART.RD` (R201). -/
def execCartRd (a : Addr) (s : State) : Host.Outcome State Fault Refusal :=
  answerRead s (cartRead Config.cfg a s.machine)

/-- `CART.WR` (R202). -/
def execCartWr (a : Addr) (d : Byte) (s : State) : Host.Outcome State Fault Refusal :=
  answerWrite s d (cartWrite Config.cfg a d)

end Sys2Proof.Machine
end

