-- ==== Sys2Proof/Machine/Driver.lean ====
section
/-! DEFINITION. Driver.lean: the processor driver (spec/44_cpu_driver.md): running the instruction core's program, the
DMA engine, one CPU cycle (R381), one machine cycle (R380), one unit (R396) and `exec`'s loop (R397); and the meanings
of the CPUCYC operations. -/

namespace Sys2Proof.Machine

/-! ## The instruction core (R383 to R387) -/

/-- Run a core program: its requests are bus accesses, made in program order, each complete before the next (R383,
R386). The second component is the cycle count, at least 1. -/
def runProg (c : Cfg) : Prog → Mach → (Opaque × Nat) × Mach
  | .done core extra, m => ((core, extra + 1), m)
  | .read a k, m => runProg c (k (busRead c a m).1) (busRead c a m).2
  | .write a d k, m => runProg c k (busWrite c a d m)

/-- `Core.step` (R384): the NMI entry if an NMI is presented, else the IRQ entry if an IRQ is presented and the core
permits it, else one instruction. So NMI wins, and the IRQ level is presented again at the next step (R480). -/
def coreStep (k : CoreSpec) (core : Opaque) (input : CoreIn) : Prog :=
  if input.nmi then k.nmiEntry core input
  else if input.irq && k.irqPermitted core then k.irqEntry core input
  else k.instruction core input

/-- `CPU.STEP` (R387, R395). -/
def cpuStep (c : Cfg) (m : Mach) : Mach :=
  let input := coreInput m
  let r := runProg c (coreStep c.core m.core input) m
  (r.2.setCore r.1.1).setCpu
    { r.2.cpu with nmiPending := nmiAfter input r.2.cpu.nmiPending, busy := r.1.2 - 1 }

/-- `CPU.BURN` (R382). -/
def cpuBurn (m : Mach) : Mach := m.setCpu { m.cpu with busy := m.cpu.busy - 1 }

/-! ## The DMA engine (R388 to R393) -/

/-- `DMA.START` (R389). -/
def dmaStart (m : Mach) : Mach :=
  m.setDma { m.dma with request := false, active := true, wait := 1 + m.cpu.cycles % 2, index := 0, phase := .read }

/-- `DMA.WAIT` (R390). -/
def dmaWait (m : Mach) : Mach := m.setDma { m.dma with wait := m.dma.wait - 1 }

/-- `DMA.READ` (R391): page in bits 15 to 8, index in bits 7 to 0. -/
def dmaRead (c : Cfg) (m : Mach) : Mach :=
  let r := busRead c (m.dma.page ++ m.dma.index) m
  r.2.setDma { r.2.dma with latch := r.1, phase := .write }

/-- `DMA.WRITE` (R393): a direct OAM store, not a bus access. -/
def dmaWrite (m : Mach) : Mach :=
  let m' := oamStore m.dma.latch m
  if m.dma.index = 255 then m'.setDma { m'.dma with phase := .read, active := false }
  else m'.setDma { m'.dma with phase := .read, index := m'.dma.index + 1 }

/-- The DMA cycle dispatch (R388): a start is spent as a wait cycle. -/
def dmaCycle (c : Cfg) (m : Mach) : Mach :=
  let m := if m.dma.request && !m.dma.active then dmaStart m else m
  if 0 < m.dma.wait then dmaWait m
  else match m.dma.phase with
    | .read => dmaRead c m
    | .write => dmaWrite m

/-! ## Cycles and units (R380, R381, R396, R397) -/

/-- `IrqLevel` (R394). -/
def irqLevel (c : Cfg) (m : Mach) : Bool := c.audio.irq m.audio || mapIrqPending c m.cart

/-- The start of every CPU cycle (R381): the IRQ level is sampled, then the audio device ticks. -/
def cycleStart (c : Cfg) (m : Mach) : Mach :=
  (m.setCpu { m.cpu with irqLine := irqLevel c m }).setAudio (c.audio.tick m.audio)

/-- The work of a CPU cycle (R381): burn, DMA or step, in this priority. -/
def cycleWork (c : Cfg) (m : Mach) : Mach :=
  if 0 < m.cpu.busy then cpuBurn m
  else if m.dma.request || m.dma.active then dmaCycle c m
  else cpuStep c m

/-- The end of every CPU cycle (R400). -/
def cycleEnd (m : Mach) : Mach := m.setCpu { m.cpu with cycles := m.cpu.cycles + 1 }

/-- `cpu_cycle()` (R381). -/
def cpuCycle (c : Cfg) (m : Mach) : Mach := cycleEnd (cycleWork c (cycleStart c m))

/-- `machine_cycle()` (R380): three dots, then one CPU cycle. -/
def machineCycle (c : Cfg) (m : Mach) : Mach := cpuCycle c ((ppuTick c)^[Config.ppuPerCpu] m)

/-- The rest of a unit (R396): machine cycles until `busy` is 0, `n` counted so far. The first argument bounds them;
the cycles left to burn are enough, since each burns one (Sys2Proof/Laws/Driver.lean). -/
def burnRest (c : Cfg) : Nat → Nat → Mach → Nat × Mach
  | 0, n, m => (n, m)
  | fuel + 1, n, m => if m.cpu.busy = 0 then (n, m) else burnRest c fuel (n + 1) (machineCycle c m)

/-- `run_unit()` (R396). -/
def runUnit (c : Cfg) (m : Mach) : Nat × Mach :=
  burnRest c (machineCycle c m).cpu.busy 1 (machineCycle c m)

/-- The loop of `exec` (R397) over units, `ticks` counted so far. The first argument bounds the units. -/
def execLoop (c : Cfg) (budget : Nat) : Nat → Nat → Mach → Nat × Mach
  | 0, ticks, m => (ticks, m)
  | fuel + 1, ticks, m =>
    if ticks * 1000000 < budget then
      execLoop c budget fuel (ticks + (runUnit c m).1) (runUnit c m).2
    else (ticks, m)

/-- `exec(T)` (R397): each unit counts at least one tick, so `budget / 1000000 + 1` units are enough. -/
def execTime (c : Cfg) (t : Nat) (m : Mach) : Nat × Mach :=
  execLoop c (t * c.cpuHz) (t * c.cpuHz / 1000000 + 1) 0 m

/-! ## Meanings -/

/-- `CPU.BURN` (R382). -/
def execCpuBurn (s : State) : Host.Outcome State Fault Refusal := answerMach s (cpuBurn s.machine)

/-- `CPU.STEP` (R387). -/
def execCpuStep (s : State) : Host.Outcome State Fault Refusal := answerMach s (cpuStep Config.cfg s.machine)

/-- `DMA.START` (R389). -/
def execDmaStart (s : State) : Host.Outcome State Fault Refusal := answerMach s (dmaStart s.machine)

/-- `DMA.WAIT` (R390). -/
def execDmaWait (s : State) : Host.Outcome State Fault Refusal := answerMach s (dmaWait s.machine)

/-- `DMA.READ` (R391). -/
def execDmaRead (s : State) : Host.Outcome State Fault Refusal := answerMach s (dmaRead Config.cfg s.machine)

/-- `DMA.WRITE` (R393). -/
def execDmaWrite (s : State) : Host.Outcome State Fault Refusal := answerMach s (dmaWrite s.machine)

end Sys2Proof.Machine
end

