-- ==== Sys2Proof/Machine/HostCommands.lean ====
section
/-! DEFINITION. HostCommands.lean: the host's commands (spec/46_host_interface.md), the cartridge's insertion
(spec/43_cartridge_mapper.md R330 to R334), the snapshots (spec/45_snapshot.md), the warm reset
(spec/70_reset_and_hazards.md R511); and the meanings of the HOST operations. -/

namespace Sys2Proof.Machine

/-! ## Cartridge (R330 to R334) -/

/-- `BuildCartridge(h, bytes, off)` with the variant's initial registers (R333). -/
def buildCartridge (h : Header) (image : List Byte) (mp : Mapper) : Cartridge :=
  let off := prgOffset h
  let prgLen := h.prgBanks.toNat * Config.prgBank
  { header := h
    prgRom := Memory.ofBytes 0 ((image.drop off).take prgLen)
    chr := if h.chrBanks = 0 then []
           else Memory.ofBytes 0 ((image.drop (off + prgLen)).take (h.chrBanks.toNat * Config.chrBank))
    chrIsRam := h.chrBanks = 0
    prgRam := []
    mapper := mp }

/-- `insert_cart(bytes)` (R330), its checks in the order of the rule. -/
def insertCart (c : Cfg) (image : List Byte) (m : Mach) : Result × Mach :=
  if image.length < 16 then fail .malformedCartridge m
  else if image.take 4 ≠ magic then fail .malformedCartridge m
  else
    let h := parseHeader (image.take 16)
    if h.prgBanks = 0 then fail .malformedCartridge m
    else if image.length < neededLength h then fail .malformedCartridge m
    else if c.supported h.mapperId then
      match initialMapper c h.mapperId with
      | none => fail .unsupportedMapper m
      | some mp => (.success, m.setCart (some (buildCartridge h image mp)))
    else fail .unsupportedMapper m

/-- `remove_cartridge()` (R334). -/
def removeCartridge (m : Mach) : Mach := m.setCart none

/-! ## Reset (R511) -/

/-- A controller latch after `reset()`: `live` is kept. -/
def resetPad (p : Pad) : Pad := { p with snapshot := 0, index := 0, strobe := false }

/-- The picture generator after `reset()`: the memories are kept. -/
def resetPpu (p : Ppu) : Ppu :=
  { Ppu.powerOn with oam := p.oam, vram := p.vram, palette := p.palette, fb := p.fb }

/-- A cartridge after `reset()`: the variant's registers return to their initial value. -/
def resetCart (c : Cfg) (k : Cartridge) : Cartridge := { k with mapper := resetMapper c k.mapper }

/-- `reset()` up to the processor's reset sequence (R511). -/
def resetClear (c : Cfg) (m : Mach) : Mach :=
  { m with
    cpu := { m.cpu with nmiPending := false, irqLine := false, cycles := 0 }
    dma := Dma.powerOn
    pad0 := resetPad m.pad0
    pad1 := resetPad m.pad1
    ppu := resetPpu m.ppu
    cart := m.cart.map (resetCart c)
    audio := c.audio.reset m.audio }

/-- `reset()` (R511): the clearing, then the processor's reset sequence, whose cycles are left to burn. -/
def warmReset (c : Cfg) (m : Mach) : Mach :=
  let r := runProg c (c.core.reset m.core) (resetClear c m)
  (r.2.setCore r.1.1).setCpu { r.2.cpu with busy := r.1.2 }

/-! ## Input and output (R444 to R447) -/

/-- `pad[p].live[b] <- v` for the pair a key code names; another code is ignored (R444, R445). -/
def setKey (code : Byte) (v : Bool) (m : Mach) : Mach :=
  match keyPair code with
  | none => m
  | some (p, b) => m.setPad p { m.pad p with live := setBit (m.pad p).live b v }

/-- `pad_mask()` (R446). -/
def padMask (m : Mach) : BitVec 16 := m.pad1.live ++ m.pad0.live

/-- `display_info()` (R447). -/
def displayInfo (c : Cfg) (m : Mach) : Display :=
  { width := c.fbW, height := c.fbH, pixels := m.ppu.fb
    palette := (List.range 64).map (fun i => c.paletteRgb (BitVec.ofNat 6 i)) }

/-! ## Snapshots (R420 to R426) -/

/-- Put a snapshot in a storage slot, the slots rising. -/
def storeSnapshot (slot : Nat) (x : Snapshot) : List (Nat × Snapshot) → List (Nat × Snapshot)
  | [] => [(slot, x)]
  | (k, y) :: rest =>
    if slot < k then (slot, x) :: (k, y) :: rest
    else if slot = k then (slot, x) :: rest
    else (k, y) :: storeSnapshot slot x rest

/-- The snapshot in a storage slot. -/
def findSnapshot (slot : Nat) : List (Nat × Snapshot) → Option Snapshot
  | [] => none
  | (k, y) :: rest => if slot = k then some y else findSnapshot slot rest

/-! ## Meanings -/

/-- `init` (R441, R510): a new Machine; what the host saved stays its own (R490). -/
def execHostInit (s : State) : Host.Outcome State Fault Refusal :=
  .next { s.answer .none (Mach.powerOn Config.cfg) with alive := true }

/-- `discard` (R442): the Machine's lifetime ends; the snapshots stay. -/
def execHostDiscard (s : State) : Host.Outcome State Fault Refusal :=
  .next { s.answer .none s.machine with alive := false }

/-- `exec` (R397). -/
def execHostExec (t : Nat) (s : State) : Host.Outcome State Fault Refusal :=
  .next (s.answer (.ticks (execTime Config.cfg t s.machine).1) (execTime Config.cfg t s.machine).2)

/-- `insert_cart` (R330). -/
def execHostInsertCart (image : List Byte) (s : State) : Host.Outcome State Fault Refusal :=
  .next (s.answer (insertCart Config.cfg image s.machine).1 (insertCart Config.cfg image s.machine).2)

/-- `remove_cartridge` (R334). -/
def execHostRemoveCartridge (s : State) : Host.Outcome State Fault Refusal :=
  answerMach s (removeCartridge s.machine)

/-- `reset` (R443, R511). -/
def execHostReset (s : State) : Host.Outcome State Fault Refusal :=
  answerMach s (warmReset Config.cfg s.machine)

/-- `key_down` (R444). -/
def execHostKeyDown (code : Byte) (s : State) : Host.Outcome State Fault Refusal :=
  answerMach s (setKey code true s.machine)

/-- `key_up` (R445). -/
def execHostKeyUp (code : Byte) (s : State) : Host.Outcome State Fault Refusal :=
  answerMach s (setKey code false s.machine)

/-- `pad_mask` (R446). -/
def execHostPadMask (s : State) : Host.Outcome State Fault Refusal :=
  .next (s.answer (.padMask (padMask s.machine)) s.machine)

/-- `display_info` (R447). -/
def execHostDisplayInfo (s : State) : Host.Outcome State Fault Refusal :=
  .next (s.answer (.display (displayInfo Config.cfg s.machine)) s.machine)

/-- `save_snapshot` (R421): the storage slot takes the tag and a copy of the whole Machine. -/
def execHostSaveSnapshot (slot : Byte) (s : State) : Host.Outcome State Fault Refusal :=
  .next { s.answer (.version Config.cfg.snapshotVersion) s.machine with
    snapshots := storeSnapshot slot.toNat { version := Config.cfg.snapshotVersion, image := s.machine } s.snapshots }

/-- `load_snapshot` (R422, R423): the version is tested first; a slot nothing was saved to is refused (log 11). -/
def execHostLoadSnapshot (version : Nat) (slot : Byte) (s : State) : Host.Outcome State Fault Refusal :=
  if version = Config.cfg.snapshotVersion then
    match findSnapshot slot.toNat s.snapshots with
    | none => .refused .nothingSaved
    | some x => .next (s.answer .success x.image)
  else .next (s.answer (fail .snapshotVersionMismatch s.machine).1 (fail .snapshotVersionMismatch s.machine).2)

end Sys2Proof.Machine
end

