-- ==== Sys2Proof/Machine/Dispatch.lean ====
section
/-! DEFINITION. Dispatch.lean: one arm for each operation of Instr, one direct call of its meaning. -/

namespace Sys2Proof.Machine

def exec (i : Instr) (s : State) : Host.Outcome State Fault Refusal :=
  match i with
  | .ramRd a => Sys2Proof.Machine.execRamRd a s
  | .ramWr a d => Sys2Proof.Machine.execRamWr a d s
  | .ppuRegRdOpen a => Sys2Proof.Machine.execPpuRegRdOpen a s
  | .ppuCtrlWr a d => Sys2Proof.Machine.execPpuCtrlWr a d s
  | .ppuMaskWr a d => Sys2Proof.Machine.execPpuMaskWr a d s
  | .ppuStatusRd a => Sys2Proof.Machine.execPpuStatusRd a s
  | .ppuStatusWr a d => Sys2Proof.Machine.execPpuStatusWr a d s
  | .oamAddrWr a d => Sys2Proof.Machine.execOamAddrWr a d s
  | .oamDataRd a => Sys2Proof.Machine.execOamDataRd a s
  | .oamDataWr a d => Sys2Proof.Machine.execOamDataWr a d s
  | .ppuScrollWr a d => Sys2Proof.Machine.execPpuScrollWr a d s
  | .ppuAddrWr a d => Sys2Proof.Machine.execPpuAddrWr a d s
  | .ppuDataRd a => Sys2Proof.Machine.execPpuDataRd a s
  | .ppuDataWr a d => Sys2Proof.Machine.execPpuDataWr a d s
  | .oamDmaRd => Sys2Proof.Machine.execOamDmaRd s
  | .oamDmaWr d => Sys2Proof.Machine.execOamDmaWr d s
  | .apuRd a => Sys2Proof.Machine.execApuRd a s
  | .apuWr a d => Sys2Proof.Machine.execApuWr a d s
  | .joy1Rd => Sys2Proof.Machine.execJoy1Rd s
  | .joyStrobe d => Sys2Proof.Machine.execJoyStrobe d s
  | .joy2Rd => Sys2Proof.Machine.execJoy2Rd s
  | .apu4017Wr d => Sys2Proof.Machine.execApu4017Wr d s
  | .ioUnmappedRd a => Sys2Proof.Machine.execIoUnmappedRd a s
  | .ioUnmappedWr a d => Sys2Proof.Machine.execIoUnmappedWr a d s
  | .cartRd a => Sys2Proof.Machine.execCartRd a s
  | .cartWr a d => Sys2Proof.Machine.execCartWr a d s
  | .patternRd a => Sys2Proof.Machine.execPatternRd a s
  | .patternWr a d => Sys2Proof.Machine.execPatternWr a d s
  | .paletteRd a => Sys2Proof.Machine.execPaletteRd a s
  | .paletteWr a d => Sys2Proof.Machine.execPaletteWr a d s
  | .nametableRd a => Sys2Proof.Machine.execNametableRd a s
  | .nametableWr a d => Sys2Proof.Machine.execNametableWr a d s
  | .vblSet => Sys2Proof.Machine.execVblSet s
  | .flagsClr => Sys2Proof.Machine.execFlagsClr s
  | .pixel => Sys2Proof.Machine.execPixel s
  | .bgShift => Sys2Proof.Machine.execBgShift s
  | .bgFetchNt => Sys2Proof.Machine.execBgFetchNt s
  | .bgFetchAt => Sys2Proof.Machine.execBgFetchAt s
  | .bgFetchLo => Sys2Proof.Machine.execBgFetchLo s
  | .bgFetchHi => Sys2Proof.Machine.execBgFetchHi s
  | .bgReload => Sys2Proof.Machine.execBgReload s
  | .vIncX => Sys2Proof.Machine.execVIncX s
  | .vIncY => Sys2Proof.Machine.execVIncY s
  | .vCopyX => Sys2Proof.Machine.execVCopyX s
  | .vCopyY => Sys2Proof.Machine.execVCopyY s
  | .bgDummyNt => Sys2Proof.Machine.execBgDummyNt s
  | .spLoad => Sys2Proof.Machine.execSpLoad s
  | .spClear => Sys2Proof.Machine.execSpClear s
  | .posAdvance => Sys2Proof.Machine.execPosAdvance s
  | .posSkip => Sys2Proof.Machine.execPosSkip s
  | .cpuBurn => Sys2Proof.Machine.execCpuBurn s
  | .cpuStep => Sys2Proof.Machine.execCpuStep s
  | .dmaStart => Sys2Proof.Machine.execDmaStart s
  | .dmaWait => Sys2Proof.Machine.execDmaWait s
  | .dmaRead => Sys2Proof.Machine.execDmaRead s
  | .dmaWrite => Sys2Proof.Machine.execDmaWrite s
  | .nromCpuRead a => Sys2Proof.Machine.execNromCpuRead a s
  | .nromCpuWrite a d => Sys2Proof.Machine.execNromCpuWrite a d s
  | .nromPpuRead a => Sys2Proof.Machine.execNromPpuRead a s
  | .nromPpuWrite a d => Sys2Proof.Machine.execNromPpuWrite a d s
  | .uxromCpuRead a => Sys2Proof.Machine.execUxromCpuRead a s
  | .uxromCpuWrite a d => Sys2Proof.Machine.execUxromCpuWrite a d s
  | .uxromPpuRead a => Sys2Proof.Machine.execUxromPpuRead a s
  | .uxromPpuWrite a d => Sys2Proof.Machine.execUxromPpuWrite a d s
  | .cnromCpuRead a => Sys2Proof.Machine.execCnromCpuRead a s
  | .cnromCpuWrite a d => Sys2Proof.Machine.execCnromCpuWrite a d s
  | .cnromPpuRead a => Sys2Proof.Machine.execCnromPpuRead a s
  | .cnromPpuWrite a d => Sys2Proof.Machine.execCnromPpuWrite a d s
  | .mirrorMode => Sys2Proof.Machine.execMirrorMode s
  | .irqPending => Sys2Proof.Machine.execIrqPending s
  | .hostInit => Sys2Proof.Machine.execHostInit s
  | .hostDiscard => Sys2Proof.Machine.execHostDiscard s
  | .hostExec microseconds => Sys2Proof.Machine.execHostExec microseconds s
  | .hostInsertCart image => Sys2Proof.Machine.execHostInsertCart image s
  | .hostRemoveCartridge => Sys2Proof.Machine.execHostRemoveCartridge s
  | .hostReset => Sys2Proof.Machine.execHostReset s
  | .hostKeyDown code => Sys2Proof.Machine.execHostKeyDown code s
  | .hostKeyUp code => Sys2Proof.Machine.execHostKeyUp code s
  | .hostPadMask => Sys2Proof.Machine.execHostPadMask s
  | .hostDisplayInfo => Sys2Proof.Machine.execHostDisplayInfo s
  | .hostSaveSnapshot slot => Sys2Proof.Machine.execHostSaveSnapshot slot s
  | .hostLoadSnapshot version slot => Sys2Proof.Machine.execHostLoadSnapshot version slot s

end Sys2Proof.Machine
end

