-- ==== Sys2Proof/Machine/Select.lean ====
section
/-! DEFINITION. Select.lean: the selectors that are conditions on the state (spec/30_encoding.md R133, R135), row by row
as opcode_table.json gives them, and the taking of what is asked for. -/

namespace Sys2Proof.Machine

/-- Render line with rendering on: the condition of the pipeline's rows. -/
def pipelineOn (p : Ppu) : Bool := renderLine p.scanline && rendering p.mask

/-- The rows with `cycle mod 8 = r`. -/
def patternDot (p : Ppu) (r : Nat) : Bool := pipelineOn p && fetchDot p.cycle && p.cycle % 8 == r

/-- The dot of `POS.SKIP` (R308). -/
def skipDot (p : Ppu) : Bool := p.scanline == 261 && p.cycle == 339 && p.frame % 2 == 1

/-- A DOT or CPUCYC operation's selector holds; an operation of another format is selected by its word or name. The
DMA trigger finds the engine at rest: "the engine cannot be re-triggered while it runs, because the core makes no
access during a transfer" (R191, R102), which keeps the request and the running engine apart (R41). -/
def selected (i : Instr) (m : Mach) : Bool :=
  match i with
  | .vblSet => m.ppu.scanline == 241 && m.ppu.cycle == 1
  | .flagsClr => m.ppu.scanline == 261 && m.ppu.cycle == 1
  | .pixel => m.ppu.scanline ≤ 239 && 1 ≤ m.ppu.cycle && m.ppu.cycle ≤ 256
  | .bgShift => pipelineOn m.ppu && fetchDot m.ppu.cycle
  | .bgFetchNt => patternDot m.ppu 1
  | .bgFetchAt => patternDot m.ppu 3
  | .bgFetchLo => patternDot m.ppu 5
  | .bgFetchHi => patternDot m.ppu 7
  | .bgReload => patternDot m.ppu 0
  | .vIncX => patternDot m.ppu 0
  | .vIncY => pipelineOn m.ppu && m.ppu.cycle == 256
  | .vCopyX => pipelineOn m.ppu && m.ppu.cycle == 257
  | .vCopyY => pipelineOn m.ppu && m.ppu.scanline == 261 && 280 ≤ m.ppu.cycle && m.ppu.cycle ≤ 304
  | .bgDummyNt => pipelineOn m.ppu && (m.ppu.cycle == 337 || m.ppu.cycle == 339)
  | .spLoad => m.ppu.scanline ≤ 239 && m.ppu.cycle == 257 && rendering m.ppu.mask
  | .spClear =>
    renderLine m.ppu.scanline && m.ppu.cycle == 257 && (m.ppu.scanline == 261 || !rendering m.ppu.mask)
  | .posAdvance => m.ppu.scanline ≤ 261 && m.ppu.cycle ≤ 340 && !skipDot m.ppu
  | .posSkip => skipDot m.ppu
  | .cpuBurn => decide (0 < m.cpu.busy)
  | .cpuStep => m.cpu.busy == 0 && !m.dma.request && !m.dma.active
  | .dmaStart => m.cpu.busy == 0 && m.dma.request && !m.dma.active
  | .dmaWait => m.cpu.busy == 0 && m.dma.active && 0 < m.dma.wait
  | .dmaRead => m.cpu.busy == 0 && m.dma.active && m.dma.wait == 0 && m.dma.phase == .read
  | .dmaWrite => m.cpu.busy == 0 && m.dma.active && m.dma.wait == 0 && m.dma.phase == .write
  | .ramRd _ => true
  | .ramWr _ _ => true
  | .ppuRegRdOpen _ => true
  | .ppuCtrlWr _ _ => true
  | .ppuMaskWr _ _ => true
  | .ppuStatusRd _ => true
  | .ppuStatusWr _ _ => true
  | .oamAddrWr _ _ => true
  | .oamDataRd _ => true
  | .oamDataWr _ _ => true
  | .ppuScrollWr _ _ => true
  | .ppuAddrWr _ _ => true
  | .ppuDataRd _ => true
  | .ppuDataWr _ _ => true
  | .oamDmaRd => true
  | .oamDmaWr _ => !m.dma.active
  | .apuRd _ => true
  | .apuWr _ _ => true
  | .joy1Rd => true
  | .joyStrobe _ => true
  | .joy2Rd => true
  | .apu4017Wr _ => true
  | .ioUnmappedRd _ => true
  | .ioUnmappedWr _ _ => true
  | .cartRd _ => true
  | .cartWr _ _ => true
  | .patternRd _ => true
  | .patternWr _ _ => true
  | .paletteRd _ => true
  | .paletteWr _ _ => true
  | .nametableRd _ => true
  | .nametableWr _ _ => true
  | .nromCpuRead _ => true
  | .nromCpuWrite _ _ => true
  | .nromPpuRead _ => true
  | .nromPpuWrite _ _ => true
  | .uxromCpuRead _ => true
  | .uxromCpuWrite _ _ => true
  | .uxromPpuRead _ => true
  | .uxromPpuWrite _ _ => true
  | .cnromCpuRead _ => true
  | .cnromCpuWrite _ _ => true
  | .cnromPpuRead _ => true
  | .cnromPpuWrite _ _ => true
  | .mirrorMode => true
  | .irqPending => true
  | .hostInit => true
  | .hostDiscard => true
  | .hostExec _ => true
  | .hostInsertCart _ => true
  | .hostRemoveCartridge => true
  | .hostReset => true
  | .hostKeyDown _ => true
  | .hostKeyUp _ => true
  | .hostPadMask => true
  | .hostDisplayInfo => true
  | .hostSaveSnapshot _ => true
  | .hostLoadSnapshot _ _ => true

/-- The operation may be applied: the Machine is alive, or the operation makes a new one (R441, R442; log 12). -/
def admitted (i : Instr) (s : State) : Bool := s.alive || i == .hostInit

/-- The state once the oldest command of the host is taken. -/
def State.takeRequest (s : State) : State := { s with requests := s.requests.drop 1 }

/-- The state once the test bench's operation is taken. -/
def State.takeBench (s : State) : State := { s with bench := none }

/-- A frame that asks for nothing is ignored: no answer, and the Machine as before (log 4). -/
def State.ignored (s : State) : State := { s with result := .none }

/-- An operation called directly on a Machine that is alive (log 2). -/
def State.putBench (s : State) (f : List Byte) : State := { s with alive := true, bench := some f }

end Sys2Proof.Machine
end

