-- ==== Sys2Proof/Machine/Fetch.lean ====
section
/-! DEFINITION. Fetch.lean: what a step does with the test bench's operation and with the host's oldest command
(log 2). -/

namespace Sys2Proof.Machine

/-- Call the operation of the frame `f` directly, as a test bench does: see that the Machine is alive and that the
operation's selector holds, take the frame, and perform it. A frame that encodes no operation is ignored. -/
def runBench (f : List Byte) (s : State) : Host.Outcome State Fault Refusal :=
  match decode f with
  | .error _ => .next s.takeBench.ignored
  | .ok i =>
    if admitted i s then
      if selected i s.machine then exec i s.takeBench else .refused .notSelected
    else .refused .discarded

/-- Run the host's command `f`, the oldest waiting: take it and perform it whole (R440). A frame that is none of the
twelve commands is ignored. -/
def runRequest (f : List Byte) (s : State) : Host.Outcome State Fault Refusal :=
  match decodeCommand f with
  | .error _ => .next s.takeRequest.ignored
  | .ok i => if admitted i s then exec i s.takeRequest else .refused .discarded

end Sys2Proof.Machine
end

