-- ==== Sys2Proof/Machine/Step.lean ====
section
/-! DEFINITION. Step.lean: one step of the model: one command of the host, run whole (spec/46_host_interface.md R440),
and with none waiting the Machine at rest (spec/60_exceptions.md R490: it runs inside `exec` only). A frame of a test
bench goes before the commands; it is there only where something outside the model put it (logs 2 and 3). -/

namespace Sys2Proof.Machine

/-- One step. -/
def step (s : State) : Host.Outcome State Fault Refusal :=
  match s.bench with
  | some f => runBench f s
  | none =>
    match s.requests with
    | [] => .next s
    | f :: _ => runRequest f s

/-- `s` with a table word's instruction as the next one `step` runs (log 5). -/
def State.withFetchWord (s : State) (nbits w : Nat) : State := s.putBench (tableFrame nbits w)

end Sys2Proof.Machine
end

