-- ==== Sys2Proof/Safety.lean ====
section
/-! DEFINITION. Safety.lean: what counts as a legal state (spec/10_state.md R41), and the words the claims are stated in:
reference cartridges, the order of a dot's operations, the operations of a CPU cycle. -/

namespace Sys2Proof.Machine

/-- The invariants of R41 on the picture generator's position and counts, and the bounds of its memories (R31, R32,
R35). -/
structure PpuLegal (c : Cfg) (p : Ppu) : Prop where
  scanline : p.scanline ≤ 261
  cycle : p.cycle ≤ 340
  /-- Dot (261, 340) does not exist in an odd frame. -/
  odd : p.frame % 2 = 1 → ¬(p.scanline = 261 ∧ p.cycle = 340)
  spCount : p.spCount ≤ 8
  units : p.sp.length = 8
  oam : Memory.wf p.oam ∧ Memory.below Config.oamSize p.oam
  vram : Memory.wf p.vram ∧ Memory.below c.vramSize p.vram
  palette : Memory.wf p.palette ∧ Memory.below c.paletteSize p.palette
  fb : Memory.wf p.fb ∧ Memory.below (c.fbW * c.fbH) p.fb

/-- A cartridge as `insert_cart` builds it and play leaves it (R36, R335): its memories are canonical and within their
sizes, and `chr` is RAM exactly when the header counts no graphics bank. -/
structure CartLegal (c : Cfg) (k : Cartridge) : Prop where
  banks : 0 < k.header.prgBanks.toNat
  chrKind : k.chrIsRam = decide (k.header.chrBanks = 0)
  prgRom : Memory.wf k.prgRom ∧ Memory.below (k.header.prgBanks.toNat * Config.prgBank) k.prgRom
  chr : Memory.wf k.chr ∧ Memory.below (max k.header.chrBanks.toNat 1 * Config.chrBank) k.chr
  prgRam : Memory.wf k.prgRam ∧ Memory.below c.prgRamSize k.prgRam

/-- The invariants that hold of a Machine between any two steps (R41). -/
structure MachLegal (c : Cfg) (m : Mach) : Prop where
  ppu : PpuLegal c m.ppu
  ram : Memory.wf m.bus.ram ∧ Memory.below Config.ramSize m.bus.ram
  pad0 : m.pad0.index ≤ 8
  pad1 : m.pad1.index ≤ 8
  wait : m.dma.wait ≤ 2
  /-- No request is held while the engine runs. -/
  dma : ¬(m.dma.request = true ∧ m.dma.active = true)
  cart : ∀ k, m.cart = some k → CartLegal c k

/-- The legal states: the Machine and every saved image satisfy R41. -/
structure Legal (s : State) : Prop where
  machine : MachLegal Config.cfg s.machine
  snapshots : ∀ e ∈ s.snapshots, MachLegal Config.cfg e.2.image

/-- The cartridge is of one of the three reference variants (R350). -/
def Cartridge.reference (k : Cartridge) : Prop := ∀ id regs, k.mapper ≠ .further id regs

/-- A cartridge image `insert_cart` finds well formed (R330): long enough for what its header announces, the magic in
front, at least one program bank. The program banks begin at `off` (R164). -/
def ImageWellFormed (image : List Byte) (off : Nat) : Prop :=
  16 ≤ image.length ∧
  image.getD 0 0 = 0x4E ∧ image.getD 1 0 = 0x45 ∧ image.getD 2 0 = 0x53 ∧ image.getD 3 0 = 0x1A ∧
  image.getD 4 0 ≠ 0 ∧
  off = (if (image.getD 6 0).getLsbD 2 then 528 else 16) ∧
  off + (image.getD 4 0).toNat * 16384 + (image.getD 5 0).toNat * 8192 ≤ image.length

/-- The mapper id in an image's header (R161). -/
def imageId (image : List Byte) : Byte := image.getD 7 0 / 16 * 16 + image.getD 6 0 / 16

/-- What a cartridge holds of its image (R331, R333), the variant apart. -/
structure BuiltFrom (image : List Byte) (off : Nat) (k : Cartridge) : Prop where
  header : k.header =
    { mapperId := imageId image, prgBanks := image.getD 4 0, chrBanks := image.getD 5 0
      mirroring := if (image.getD 6 0).getLsbD 0 then .vertical else .horizontal
      battery := (image.getD 6 0).getLsbD 1, trainer := (image.getD 6 0).getLsbD 2
      fourScreen := (image.getD 6 0).getLsbD 3 }
  prgRom : ∀ i, Memory.read k.prgRom i =
    if i < (image.getD 4 0).toNat * 16384 then image.getD (off + i) 0 else 0
  chr : ∀ i, Memory.read k.chr i =
    if i < (image.getD 5 0).toNat * 8192 then image.getD (off + (image.getD 4 0).toNat * 16384 + i) 0 else 0
  chrIsRam : k.chrIsRam = decide (image.getD 5 0 = 0)
  prgRam : ∀ i, Memory.read k.prgRam i = 0

/-- The bus accesses of a core program, in program order: an address, and the byte of a write (R383, R386). -/
def busTrace (c : Cfg) : Prog → Mach → List (Addr × Option Byte)
  | .done _ _, _ => []
  | .read a k, m => (a, none) :: busTrace c (k (busRead c a m).1) (busRead c a m).2
  | .write a d k, m => (a, some d) :: busTrace c k (busWrite c a d m)

/-- The operations of a dot in the fixed order of R270. -/
def dotOrder : List Instr :=
  [.vblSet, .flagsClr, .pixel, .bgShift, .bgFetchNt, .bgFetchAt, .bgFetchLo, .bgFetchHi, .bgReload, .vIncX, .vIncY,
   .vCopyX, .vCopyY, .bgDummyNt, .spLoad, .spClear, .posAdvance, .posSkip]

/-- The six operations of the driver (R381, R388). -/
def driverOperations : List Instr := [.cpuBurn, .cpuStep, .dmaStart, .dmaWait, .dmaRead, .dmaWrite]

/-- Execute, one after another, those operations of a list whose selector holds in `m`. -/
def runSelected (m : Mach) : List Instr → State → Host.Outcome State Fault Refusal
  | [], s => .next s
  | i :: is, s =>
    if selected i m then
      match exec i s with
      | .next s' => runSelected m is s'
      | .fault f => .fault f
      | .refused r => .refused r
    else runSelected m is s

end Sys2Proof.Machine
end

