-- ==== Sys2Proof/Certificates/Slice0/Obligations.lean ====
section
/-! DEFINITION. Obligations.lean: the statements for the provers. `Config.cfg` is the record the machine runs with; a
statement over every `c : Cfg` holds of it in particular. A next state is written as a record update of the state
before, so that every field not named is unchanged. -/

open Sys2Proof Sys2Proof.Machine

/-! ## Selectors and frames -/

/-- Decoding gives back every well-formed operation that was encoded, with every operand. The framing around the
selector words is the model's (log 4). -/
def Obligations.DecodeGivesBackEncodedOperation : Prop :=
  ∀ i : Instr, i.wellFormed = true → decode (encode i) = .ok i

/-- Whatever a frame decodes to has its address in the range that selects it. -/
def Obligations.DecodeYieldsWellFormedOperation : Prop :=
  ∀ (f : List Byte) (i : Instr), decode f = .ok i → i.wellFormed = true

/-- R136 and R137 against the maps of R90 and R91: which operation each address of the two buses selects. -/
def Obligations.SelectorsFollowAddressMaps : Prop :=
  (∀ (a : Addr) (d : Byte),
    (a.toNat < 0x2000 → cpuReadInstr a = .ramRd a ∧ cpuWriteInstr a d = .ramWr a d) ∧
    (0x2000 ≤ a.toNat → a.toNat < 0x4000 →
      (a.toNat % 8 = 0 → cpuReadInstr a = .ppuRegRdOpen a ∧ cpuWriteInstr a d = .ppuCtrlWr a d) ∧
      (a.toNat % 8 = 1 → cpuReadInstr a = .ppuRegRdOpen a ∧ cpuWriteInstr a d = .ppuMaskWr a d) ∧
      (a.toNat % 8 = 2 → cpuReadInstr a = .ppuStatusRd a ∧ cpuWriteInstr a d = .ppuStatusWr a d) ∧
      (a.toNat % 8 = 3 → cpuReadInstr a = .ppuRegRdOpen a ∧ cpuWriteInstr a d = .oamAddrWr a d) ∧
      (a.toNat % 8 = 4 → cpuReadInstr a = .oamDataRd a ∧ cpuWriteInstr a d = .oamDataWr a d) ∧
      (a.toNat % 8 = 5 → cpuReadInstr a = .ppuRegRdOpen a ∧ cpuWriteInstr a d = .ppuScrollWr a d) ∧
      (a.toNat % 8 = 6 → cpuReadInstr a = .ppuRegRdOpen a ∧ cpuWriteInstr a d = .ppuAddrWr a d) ∧
      (a.toNat % 8 = 7 → cpuReadInstr a = .ppuDataRd a ∧ cpuWriteInstr a d = .ppuDataWr a d)) ∧
    (0x4000 ≤ a.toNat → a.toNat < 0x4014 → cpuReadInstr a = .apuRd a ∧ cpuWriteInstr a d = .apuWr a d) ∧
    (a.toNat = 0x4014 → cpuReadInstr a = .oamDmaRd ∧ cpuWriteInstr a d = .oamDmaWr d) ∧
    (a.toNat = 0x4015 → cpuReadInstr a = .apuRd a ∧ cpuWriteInstr a d = .apuWr a d) ∧
    (a.toNat = 0x4016 → cpuReadInstr a = .joy1Rd ∧ cpuWriteInstr a d = .joyStrobe d) ∧
    (a.toNat = 0x4017 → cpuReadInstr a = .joy2Rd ∧ cpuWriteInstr a d = .apu4017Wr d) ∧
    (0x4018 ≤ a.toNat → a.toNat < 0x4020 →
      cpuReadInstr a = .ioUnmappedRd a ∧ cpuWriteInstr a d = .ioUnmappedWr a d) ∧
    (0x4020 ≤ a.toNat → cpuReadInstr a = .cartRd a ∧ cpuWriteInstr a d = .cartWr a d)) ∧
  (∀ (a : PpuAddr) (d : Byte),
    (a.toNat < 0x2000 → ppuReadInstr a = .patternRd a ∧ ppuWriteInstr a d = .patternWr a d) ∧
    (0x2000 ≤ a.toNat → a.toNat < 0x3F00 →
      ppuReadInstr a = .nametableRd a ∧ ppuWriteInstr a d = .nametableWr a d) ∧
    (0x3F00 ≤ a.toNat → ppuReadInstr a = .paletteRd a ∧ ppuWriteInstr a d = .paletteWr a d))

/-- R131, R132: every 17-bit CPUBUS word and every 15-bit PPUBUS word selects an operation whose frame carries that
word, and a word with a higher bit set selects none. That a word of 24 bits is a CPUBUS word and one of 16 a PPUBUS
word is the model's reading of the table (log 5). -/
def Obligations.EveryBusWordSelectsOneOperation : Prop :=
  (∀ w, w < 2 ^ 17 → ∃ i, decodeTableWord 24 w = some i ∧ i.wellFormed = true ∧
    natOfBytes (((encode i).drop 1).take 3) = w) ∧
  (∀ w, 2 ^ 17 ≤ w → w < 2 ^ 24 → decodeTableWord 24 w = none) ∧
  (∀ w, w < 2 ^ 15 → ∃ i, decodeTableWord 16 w = some i ∧ i.wellFormed = true ∧
    natOfBytes (((encode i).drop 1).take 2) = w) ∧
  (∀ w, 2 ^ 15 ≤ w → w < 2 ^ 16 → decodeTableWord 16 w = none)

/-- Words written out from R131, R132, R136 and R137, and ordinals of R134. -/
def Obligations.SpecWordsDecodeToTheirOperations : Prop :=
  decodeTableWord 24 0b00001100000000010 = some (.ramRd 0x1802) ∧
  decodeTableWord 24 0b00011111111111010 = some (.ppuStatusRd 0x3FFA) ∧
  decodeTableWord 24 0b10010000000001000 = some (.ppuCtrlWr 0x2008 0) ∧
  decodeTableWord 24 0b10100000000010100 = some (.oamDmaWr 0) ∧
  decodeTableWord 24 0b00100000000010110 = some .joy1Rd ∧
  decodeTableWord 24 0b00100000000011000 = some (.ioUnmappedRd 0x4018) ∧
  decodeTableWord 24 0b01111111111111100 = some (.cartRd 0xFFFC) ∧
  decodeTableWord 16 0b011111100010000 = some (.paletteRd 0x3F10) ∧
  decodeTableWord 16 0b110000000000101 = some (.nametableWr 0x2005 0) ∧
  decodeTableWord 16 0b000000000010000 = some (.patternRd 0x0010) ∧
  decodeTableWord 8 5 = some .hostReset ∧
  decodeTableWord 8 9 = some .hostDisplayInfo ∧
  decodeTableWord 8 12 = none

/-! ## Steps -/

/-- R440: a step runs the host's oldest command whole: the queue loses that frame, and the Machine must be alive or the
command be `init` (R441, R442). A test bench's operation (log 2) goes before the commands: the bench loses its frame, and
the operation's selector must hold (R133, R135; log 13). -/
def Obligations.StepExecutesOldestRequest : Prop :=
  (∀ (s : State) (f : List Byte) (rest : List (List Byte)) (i : Instr),
    s.bench = none → s.requests = f :: rest → decodeCommand f = .ok i → (s.alive = true ∨ i = .hostInit) →
    step s = exec i { s with requests := rest }) ∧
  (∀ (s : State) (f : List Byte) (i : Instr),
    s.bench = some f → decode f = .ok i → (s.alive = true ∨ i = .hostInit) → selected i s.machine = true →
    step s = exec i { s with bench := none })

/-- R440, R450, R490: with nothing asked for the Machine is at rest; what the host asks for is one of the twelve commands
or is ignored, with the Machine as it was; and no step puts anything on the bench, so without a bench only commands run.
The two stops of a step, by name (logs 12, 13). -/
def Obligations.StepWithoutRequestAndStops : Prop :=
  (∀ s : State, s.bench = none → s.requests = [] → step s = .next s) ∧
  (∀ (f : List Byte) (i : Instr), decodeCommand f = .ok i → (encode i).head? = some fmtHost ∧ decode f = .ok i) ∧
  (∀ s t : State, s.bench = none → step s = .next t → t.bench = none) ∧
  (∀ (s : State) f rest e, s.bench = none → s.requests = f :: rest → decodeCommand f = .error e →
    step s = .next { s with requests := rest, result := .none }) ∧
  (∀ (s : State) f e, s.bench = some f → decode f = .error e →
    step s = .next { s with bench := none, result := .none }) ∧
  (∀ (s : State) f rest i, s.bench = none → s.requests = f :: rest → decodeCommand f = .ok i → s.alive = false →
    i ≠ .hostInit → step s = .refused .discarded) ∧
  (∀ (s : State) f i, s.bench = some f → decode f = .ok i → s.alive = false → i ≠ .hostInit →
    step s = .refused .discarded) ∧
  (∀ (s : State) f i, s.bench = some f → decode f = .ok i → s.alive = true → selected i s.machine = false →
    step s = .refused .notSelected)

/-- The state after `init` is legal (R41, R510). -/
def Obligations.ResetStateIsLegal : Prop := Legal State.reset

/-- R41: every step from a legal state ends in a legal state. -/
def Obligations.EveryStepKeepsLegality : Prop :=
  ∀ s s' : State, Legal s → step s = .next s' → Legal s'

/-! ## The system bus -/

/-- R183, R184: a RAM read returns the byte of the location the address reaches and changes the open-bus latch only; a
RAM write stores its byte there, and every other byte of RAM reads as before. That each access also sets the latch (R181,
R182, R195) is the spec's decision D7, followed under log 19. -/
def Obligations.RamAccessesReachMirroredLocation : Prop :=
  (∀ (a : Addr) (s : State), ∃ b : Byte, b = Memory.read s.machine.bus.ram (a.toNat % 0x0800) ∧
     exec (.ramRd a) s = .next { s with
       result := .byte b
       machine := { s.machine with bus := { s.machine.bus with openBus := b } } }) ∧
  (∀ (a : Addr) (d : Byte) (s : State), ramIndex a = a.toNat % 0x0800 ∧ ∃ ram : Memory 8,
     exec (.ramWr a d) s = .next { s with
       result := .none
       machine := { s.machine with bus := { ram := ram, openBus := d } } } ∧
     ∀ b, Memory.read ram b = if b = ramIndex a then d else Memory.read s.machine.bus.ram b)

/-- R181, R182, R250, R251: a bus access is the operation its word selects, on the bus of the processor and on that of
the picture generator. R204: RAM mirroring through the bus, and the mirroring of the picture generator's registers. -/
def Obligations.MirroredAddressesActAlike : Prop :=
  (∀ (a : Addr) (d : Byte) (s : State),
    exec (cpuReadInstr a) s = .next { s with
      result := .byte (busRead Config.cfg a s.machine).1, machine := (busRead Config.cfg a s.machine).2 } ∧
    exec (cpuWriteInstr a d) s = .next { s with
      result := .none, machine := busWrite Config.cfg a d s.machine }) ∧
  (∀ (a : PpuAddr) (d : Byte) (s : State),
    exec (ppuReadInstr a) s = .next { s with
      result := .byte (ppuRead Config.cfg a s.machine).1, machine := (ppuRead Config.cfg a s.machine).2 } ∧
    exec (ppuWriteInstr a d) s = .next { s with
      result := .none, machine := ppuWrite Config.cfg a d s.machine }) ∧
  (∀ (c : Cfg) (a : Addr) (d : Byte) (m : Mach), a.toNat < 0x2000 →
    (busRead c (a &&& 0x07FF) (busWrite c a d m)).1 = d) ∧
  (∀ a : Addr, 0x2000 ≤ a.toNat → a.toNat < 0x4000 →
    cpuReadOp a = cpuReadOp (0x2000 + (a &&& 7)) ∧ cpuWriteOp a = cpuWriteOp (0x2000 + (a &&& 7))) ∧
  (∀ (c : Cfg) (a : Addr) (d : Byte) (m : Mach), 0x2000 ≤ a.toNat → a.toNat < 0x4000 →
    busRead c a m = busRead c (0x2000 + (a &&& 7)) m ∧ busWrite c a d m = busWrite c (0x2000 + (a &&& 7)) d m)

/-- R195: the open-bus latch after every access, and that nothing else writes it. -/
def Obligations.OpenBusLatchFollowsEveryAccess : Prop :=
  (∀ (c : Cfg) (a : Addr) (d : Byte) (m : Mach),
    (busRead c a m).2.bus.openBus = (busRead c a m).1 ∧ (busWrite c a d m).bus.openBus = d) ∧
  (∀ (c : Cfg) (m : Mach), (ppuTick c m).bus.openBus = m.bus.openBus ∧ (dmaWrite m).bus.openBus = m.bus.openBus ∧
    (dmaStart m).bus.openBus = m.bus.openBus ∧ (dmaWait m).bus.openBus = m.bus.openBus ∧
    (cpuBurn m).bus.openBus = m.bus.openBus ∧ (cycleStart c m).bus.openBus = m.bus.openBus ∧
    (cycleEnd m).bus.openBus = m.bus.openBus) ∧
  (∀ (c : Cfg) (m : Mach) (code : Byte) (v : Bool) (image : List Byte),
    (setKey code v m).bus.openBus = m.bus.openBus ∧ (insertCart c image m).2.bus.openBus = m.bus.openBus ∧
    (removeCartridge m).bus.openBus = m.bus.openBus ∧ (resetClear c m).bus.openBus = m.bus.openBus) ∧
  (∀ c : Cfg, (Mach.powerOn c).bus.openBus = c.openBusInit)

/-- R242, R192, R193, R234, R194: a read that nothing answers returns the latch and changes nothing; a write that
nothing takes changes the latch only. -/
def Obligations.UnansweredAccessesTouchOnlyTheLatch : Prop :=
  ∀ (a : Addr) (d : Byte) (s : State),
    exec (.ppuRegRdOpen a) s = .next { s with result := .byte s.machine.bus.openBus } ∧
    exec .oamDmaRd s = .next { s with result := .byte s.machine.bus.openBus } ∧
    exec (.ioUnmappedRd a) s = .next { s with result := .byte s.machine.bus.openBus } ∧
    exec (.ppuStatusWr a d) s = .next { s with
      result := .none
      machine := { s.machine with bus := { s.machine.bus with openBus := d } } } ∧
    exec (.ioUnmappedWr a d) s = .next { s with
      result := .none
      machine := { s.machine with bus := { s.machine.bus with openBus := d } } }

/-- R187, R188, R189: the audio ports reach the audio device and nothing else but the latch. -/
def Obligations.AudioPortsReachTheAudioDevice : Prop :=
  ∀ (a : Addr) (d : Byte) (s : State),
    exec (.apuRd a) s = .next { s with
      result := .byte (Config.cfg.audio.read s.machine.audio a s.machine.bus.openBus).1
      machine := { s.machine with
        audio := (Config.cfg.audio.read s.machine.audio a s.machine.bus.openBus).2
        bus := { s.machine.bus with
          openBus := (Config.cfg.audio.read s.machine.audio a s.machine.bus.openBus).1 } } } ∧
    exec (.apuWr a d) s = .next { s with
      result := .none
      machine := { s.machine with
        audio := Config.cfg.audio.write s.machine.audio a d
        bus := { s.machine.bus with openBus := d } } } ∧
    exec (.apu4017Wr d) s = .next { s with
      result := .none
      machine := { s.machine with
        audio := Config.cfg.audio.write s.machine.audio 0x4017 d
        bus := { s.machine.bus with openBus := d } } }

/-- R191: a write to 0x4014 requests a transfer of a page. R391, R393: the read half of a byte move is a bus read of the
page and index; the write half stores the latch at the OAM address, not through the bus, and every other byte of OAM
reads as before. The engine that moves a byte in two halves is the spec's decision D4, its destination D6 (log 19). -/
def Obligations.OamDmaRequestAndByteMoves : Prop :=
  (∀ (d : Byte) (s : State), exec (.oamDmaWr d) s = .next { s with
     result := .none
     machine := { s.machine with
       dma := { s.machine.dma with page := d, request := true }
       bus := { s.machine.bus with openBus := d } } }) ∧
  (∀ (s : State) (a : Addr), a.toNat = s.machine.dma.page.toNat * 256 + s.machine.dma.index.toNat →
     (∃ r : Byte × Mach, r = busRead Config.cfg a s.machine ∧
       exec .dmaRead s = .next { s with
         result := .none
         machine := { r.2 with dma := { r.2.dma with latch := r.1, phase := .write } } }) ∧
     (∃ oam : Memory 8,
       exec .dmaWrite s = .next { s with
         result := .none
         machine := { s.machine with
           ppu := { s.machine.ppu with
             oam := oam, oamAddr := BitVec.ofNat 8 ((s.machine.ppu.oamAddr.toNat + 1) % 256) }
           dma := { s.machine.dma with
             phase := .read
             active := if s.machine.dma.index.toNat = 255 then false else s.machine.dma.active
             index := if s.machine.dma.index.toNat = 255 then s.machine.dma.index
                      else BitVec.ofNat 8 (s.machine.dma.index.toNat + 1) } } } ∧
       ∀ b, Memory.read oam b =
         if b = s.machine.ppu.oamAddr.toNat then s.machine.dma.latch else Memory.read s.machine.ppu.oam b))

/-- R197: a strobe write sets both strobes and, with bit 0 set, takes both snapshots and clears both indices. R198, R199: a
serial read returns one bit of the snapshot (or 1 after eight), and advances that controller's index below eight when
the strobe is released. -/
def Obligations.ControllerPortAccesses : Prop :=
  (∀ (d : Byte) (s : State), ∃ p q : Pad,
     exec (.joyStrobe d) s = .next { s with
       result := .none
       machine := { s.machine with pad0 := p, pad1 := q, bus := { s.machine.bus with openBus := d } } } ∧
     (d.toNat % 2 = 1 →
       p = { s.machine.pad0 with strobe := true, snapshot := s.machine.pad0.live, index := 0 } ∧
       q = { s.machine.pad1 with strobe := true, snapshot := s.machine.pad1.live, index := 0 }) ∧
     (d.toNat % 2 = 0 →
       p = { s.machine.pad0 with strobe := false } ∧ q = { s.machine.pad1 with strobe := false })) ∧
  (∀ s : State,
     (∃ b : Byte, b.toNat = (if s.machine.pad0.strobe then s.machine.pad0.snapshot.toNat % 2
           else if s.machine.pad0.index < 8 then s.machine.pad0.snapshot.toNat / 2 ^ s.machine.pad0.index % 2 else 1) ∧
       exec .joy1Rd s = .next { s with
         result := .byte b
         machine := { s.machine with
           bus := { s.machine.bus with openBus := b }
           pad0 := { s.machine.pad0 with
             index := if s.machine.pad0.strobe = false ∧ s.machine.pad0.index < 8 then s.machine.pad0.index + 1
                      else s.machine.pad0.index } } }) ∧
     (∃ b : Byte, b.toNat = (if s.machine.pad1.strobe then s.machine.pad1.snapshot.toNat % 2
           else if s.machine.pad1.index < 8 then s.machine.pad1.snapshot.toNat / 2 ^ s.machine.pad1.index % 2 else 1) ∧
       exec .joy2Rd s = .next { s with
         result := .byte b
         machine := { s.machine with
           bus := { s.machine.bus with openBus := b }
           pad1 := { s.machine.pad1 with
             index := if s.machine.pad1.strobe = false ∧ s.machine.pad1.index < 8 then s.machine.pad1.index + 1
                      else s.machine.pad1.index } } }))

/-- R196, R198, R200: with the strobe released at index 0, the reads deliver the eight snapshot bits in order and then
1 for ever, whatever keys change before any of the reads. -/
def Obligations.ShiftOutDeliversSnapshotInOrder : Prop :=
  ∀ (p : Port) (keys : Nat → Byte × Bool) (m : Mach), (m.pad p).strobe = false → (m.pad p).index = 0 →
    ∀ n, (joyRead p (setKey (keys n).1 (keys n).2
        (Nat.rec m (fun k x => (joyRead p (setKey (keys k).1 (keys k).2 x)).2) n))).1 =
      if n < 8 then bitByte ((m.pad p).snapshot.getLsbD n) else 1

/-- R201, R202, R252: the cartridge window of the processor and the pattern tables of the picture generator, with a
cartridge and without. R345 to R348: the call such an access makes is the capability of the inserted variant, one of the
three reference variants or a further one. The stores of a further variant go to work RAM, or to a RAM graphics memory,
each at its offset modulo the size, and nowhere else (log 8: the model's); the rest is D7 and D32 of the spec (log 19). -/
def Obligations.CartridgeAccessesGoToTheVariant : Prop :=
  (∀ (a : Addr) (d : Byte) (s : State),
     (s.machine.cart = none →
       exec (.cartRd a) s = .next { s with result := .byte s.machine.bus.openBus } ∧
       exec (.cartWr a d) s = .next { s with
         result := .none
         machine := { s.machine with bus := { s.machine.bus with openBus := d } } }) ∧
     (∀ k, s.machine.cart = some k →
       exec (.cartRd a) s = .next { s with
         result := .byte ((mapCpuRead Config.cfg k a).1.getD s.machine.bus.openBus)
         machine := { s.machine with
           cart := some (mapCpuRead Config.cfg k a).2
           bus := { s.machine.bus with openBus := (mapCpuRead Config.cfg k a).1.getD s.machine.bus.openBus } } } ∧
       exec (.cartWr a d) s = .next { s with
         result := .none
         machine := { s.machine with
           cart := some (mapCpuWrite Config.cfg k a d)
           bus := { s.machine.bus with openBus := d } } })) ∧
  (∀ (a : PpuAddr) (d : Byte) (s : State),
     (s.machine.cart = none →
       exec (.patternRd a) s = .next { s with result := .byte 0x00 } ∧
       exec (.patternWr a d) s = .next { s with result := .none }) ∧
     (∀ k, s.machine.cart = some k →
       exec (.patternRd a) s = .next { s with
         result := .byte ((mapPpuRead Config.cfg k a).1.getD 0x00)
         machine := { s.machine with cart := some (mapPpuRead Config.cfg k a).2 } } ∧
       exec (.patternWr a d) s = .next { s with
         result := .none
         machine := { s.machine with cart := some (mapPpuWrite Config.cfg k a d) } })) ∧
  (∀ (a : Addr) (q : PpuAddr) (d : Byte) (s : State) (k : Cartridge), s.machine.cart = some k →
     (k.mapper = .nrom →
       exec (.nromCpuRead a) s = .next { s with result := .optByte (mapCpuRead Config.cfg k a).1 } ∧
       exec (.nromCpuWrite a d) s = .next { s with
         result := .none, machine := { s.machine with cart := some (mapCpuWrite Config.cfg k a d) } } ∧
       exec (.nromPpuRead q) s = .next { s with result := .optByte (mapPpuRead Config.cfg k q).1 } ∧
       exec (.nromPpuWrite q d) s = .next { s with
         result := .none, machine := { s.machine with cart := some (mapPpuWrite Config.cfg k q d) } } ∧
       (mapCpuRead Config.cfg k a).2 = k ∧ (mapPpuRead Config.cfg k q).2 = k) ∧
     (∀ b, k.mapper = .uxrom b →
       exec (.uxromCpuRead a) s = .next { s with result := .optByte (mapCpuRead Config.cfg k a).1 } ∧
       exec (.uxromCpuWrite a d) s = .next { s with
         result := .none, machine := { s.machine with cart := some (mapCpuWrite Config.cfg k a d) } } ∧
       exec (.uxromPpuRead q) s = .next { s with result := .optByte (mapPpuRead Config.cfg k q).1 } ∧
       exec (.uxromPpuWrite q d) s = .next { s with
         result := .none, machine := { s.machine with cart := some (mapPpuWrite Config.cfg k q d) } } ∧
       (mapCpuRead Config.cfg k a).2 = k ∧ (mapPpuRead Config.cfg k q).2 = k) ∧
     (∀ b, k.mapper = .cnrom b →
       exec (.cnromCpuRead a) s = .next { s with result := .optByte (mapCpuRead Config.cfg k a).1 } ∧
       exec (.cnromCpuWrite a d) s = .next { s with
         result := .none, machine := { s.machine with cart := some (mapCpuWrite Config.cfg k a d) } } ∧
       exec (.cnromPpuRead q) s = .next { s with result := .optByte (mapPpuRead Config.cfg k q).1 } ∧
       exec (.cnromPpuWrite q d) s = .next { s with
         result := .none, machine := { s.machine with cart := some (mapPpuWrite Config.cfg k q d) } } ∧
       (mapCpuRead Config.cfg k a).2 = k ∧ (mapPpuRead Config.cfg k q).2 = k)) ∧
  (∀ (c : Cfg) (a : Addr) (q : PpuAddr) (d : Byte) (k : Cartridge) (id : Byte) (regs : Opaque) (v : VariantSpec),
     k.mapper = .further id regs → c.furtherVariant id = some v →
     mapCpuRead c k a = ((v.cpuRead (k.view regs) a).1, { k with mapper := .further id (v.cpuRead (k.view regs) a).2 }) ∧
     mapPpuRead c k q = ((v.ppuRead (k.view regs) q).1, { k with mapper := .further id (v.ppuRead (k.view regs) q).2 }) ∧
     mapCpuWrite c k a d = { k with
       mapper := .further id (v.cpuWrite (k.view regs) a d).1
       prgRam := Memory.writeAll k.prgRam
         ((v.cpuWrite (k.view regs) a d).2.map (fun e => (e.1 % c.prgRamSize, e.2))) } ∧
     mapPpuWrite c k q d = { k with
       mapper := .further id (v.ppuWrite (k.view regs) q d).1
       chr := if k.chrIsRam then
           Memory.writeAll k.chr ((v.ppuWrite (k.view regs) q d).2.map (fun e => (e.1 % Config.chrBank, e.2)))
         else k.chr })

/-! ## The picture generator's ports -/

/-- R231, R232: the control and mask writes; every bit of `t` outside 11 to 10 is unchanged. -/
def Obligations.ControlAndMaskWrites : Prop :=
  ∀ (a : Addr) (d : Byte) (s : State),
    (∃ t : VramReg,
      exec (.ppuCtrlWr a d) s = .next { s with
        result := .none
        machine := { s.machine with
          ppu := { s.machine.ppu with ctrl := d, t := t }
          bus := { s.machine.bus with openBus := d } } } ∧
      t.extractLsb' 10 2 = d.extractLsb' 0 2 ∧
      ∀ i, i ≠ 10 → i ≠ 11 → t.getLsbD i = s.machine.ppu.t.getLsbD i) ∧
    exec (.ppuMaskWr a d) s = .next { s with
      result := .none
      machine := { s.machine with
        ppu := { s.machine.ppu with mask := d }
        bus := { s.machine.bus with openBus := d } } }

/-- R233: a status read returns the three flags in bits 7 to 5 and zeros below, clears the vertical-blank flag and the
toggle, and changes no other flag. The zeros are the spec's decision D14 (R143), the bit positions its G2 and D12, the
latch its D7, all followed under log 19. -/
def Obligations.StatusReadReturnsAndClears : Prop :=
  ∀ (a : Addr) (s : State), ∃ b : Byte,
    exec (.ppuStatusRd a) s = .next { s with
      result := .byte b
      machine := { s.machine with
        ppu := { s.machine.ppu with vblank := false, w := false }
        bus := { s.machine.bus with openBus := b } } } ∧
    b.getLsbD 7 = s.machine.ppu.vblank ∧ b.getLsbD 6 = s.machine.ppu.sprite0Hit ∧
    b.getLsbD 5 = s.machine.ppu.overflow ∧ b.toNat % 32 = 0

/-- R235, R236, R237: the OAM address, the read that advances it, and the write that stores one byte and advances it;
every other byte of OAM reads as before. That a read advances it, and that all eight bits are kept, is the spec's decision
D18, followed under log 19. -/
def Obligations.OamPortAccesses : Prop :=
  ∀ (a : Addr) (d : Byte) (s : State),
    exec (.oamAddrWr a d) s = .next { s with
      result := .none
      machine := { s.machine with
        ppu := { s.machine.ppu with oamAddr := d }
        bus := { s.machine.bus with openBus := d } } } ∧
    exec (.oamDataRd a) s = .next { s with
      result := .byte (Memory.read s.machine.ppu.oam s.machine.ppu.oamAddr.toNat)
      machine := { s.machine with
        ppu := { s.machine.ppu with oamAddr := BitVec.ofNat 8 (s.machine.ppu.oamAddr.toNat + 1) }
        bus := { s.machine.bus with openBus := Memory.read s.machine.ppu.oam s.machine.ppu.oamAddr.toNat } } } ∧
    (∃ oam : Memory 8,
      exec (.oamDataWr a d) s = .next { s with
        result := .none
        machine := { s.machine with
          ppu := { s.machine.ppu with
            oam := oam, oamAddr := BitVec.ofNat 8 (s.machine.ppu.oamAddr.toNat + 1) }
          bus := { s.machine.bus with openBus := d } } } ∧
      ∀ b, Memory.read oam b =
        if b = s.machine.ppu.oamAddr.toNat then d else Memory.read s.machine.ppu.oam b)

/-- R238: the two scroll writes; `v` is not written, and every bit of `t` outside the fields named is unchanged. -/
def Obligations.ScrollWritesFillScrollFields : Prop :=
  ∀ (a : Addr) (d : Byte) (s : State), ∃ t : VramReg,
    (s.machine.ppu.w = false →
      exec (.ppuScrollWr a d) s = .next { s with
        result := .none
        machine := { s.machine with
          ppu := { s.machine.ppu with t := t, x := d.extractLsb' 0 3, w := true }
          bus := { s.machine.bus with openBus := d } } } ∧
      t.extractLsb' 0 5 = d.extractLsb' 3 5 ∧ ∀ i, 5 ≤ i → t.getLsbD i = s.machine.ppu.t.getLsbD i) ∧
    (s.machine.ppu.w = true →
      exec (.ppuScrollWr a d) s = .next { s with
        result := .none
        machine := { s.machine with
          ppu := { s.machine.ppu with t := t, w := false }
          bus := { s.machine.bus with openBus := d } } } ∧
      t.extractLsb' 12 3 = d.extractLsb' 0 3 ∧ t.extractLsb' 5 5 = d.extractLsb' 3 5 ∧
      ∀ i, (i < 5 ∨ i = 10 ∨ i = 11) → t.getLsbD i = s.machine.ppu.t.getLsbD i)

/-- R239: the two address writes; the second moves `t` to `v`. -/
def Obligations.AddressWritesFillVramAddress : Prop :=
  ∀ (a : Addr) (d : Byte) (s : State), ∃ t : VramReg,
    (s.machine.ppu.w = false →
      exec (.ppuAddrWr a d) s = .next { s with
        result := .none
        machine := { s.machine with
          ppu := { s.machine.ppu with t := t, w := true }
          bus := { s.machine.bus with openBus := d } } } ∧
      t.extractLsb' 8 6 = d.extractLsb' 0 6 ∧ t.getLsbD 14 = false ∧
      ∀ i, i < 8 → t.getLsbD i = s.machine.ppu.t.getLsbD i) ∧
    (s.machine.ppu.w = true →
      exec (.ppuAddrWr a d) s = .next { s with
        result := .none
        machine := { s.machine with
          ppu := { s.machine.ppu with t := t, v := t, w := false }
          bus := { s.machine.bus with openBus := d } } } ∧
      t.extractLsb' 0 8 = d ∧ ∀ i, 8 ≤ i → t.getLsbD i = s.machine.ppu.t.getLsbD i)

/-- R240, R243: a data-port read. Below 0x3F00 it answers the buffer and refills it from PPU memory (a variant may see
the read); from 0x3F00 on it answers the palette entry and refills the buffer with the nametable byte beneath. `v`
advances by 1 or 32 modulo 0x8000. -/
def Obligations.DataPortReadIsBufferedBelowPalette : Prop :=
  ∀ (a : Addr) (s : State) (va : PpuAddr) (v' : VramReg),
    va.toNat = s.machine.ppu.v.toNat % 0x4000 →
    v'.toNat = (s.machine.ppu.v.toNat + (if s.machine.ppu.ctrl.getLsbD 2 then 32 else 1)) % 0x8000 →
    (va.toNat < 0x3F00 →
      exec (.ppuDataRd a) s = .next { s with
        result := .byte s.machine.ppu.readBuffer
        machine := { s.machine with
          cart := (ppuRead Config.cfg va s.machine).2.cart
          ppu := { s.machine.ppu with readBuffer := (ppuRead Config.cfg va s.machine).1, v := v' }
          bus := { s.machine.bus with openBus := s.machine.ppu.readBuffer } } }) ∧
    (0x3F00 ≤ va.toNat →
      exec (.ppuDataRd a) s = .next { s with
        result := .byte ((Memory.read s.machine.ppu.palette (palIndex va)).setWidth 8)
        machine := { s.machine with
          ppu := { s.machine.ppu with
            readBuffer := Memory.read s.machine.ppu.vram
              (ntMap (mapMirrorMode Config.cfg s.machine.cart) (va - 0x1000))
            v := v' }
          bus := { s.machine.bus with
            openBus := (Memory.read s.machine.ppu.palette (palIndex va)).setWidth 8 } } })

/-- R241, R243: a data-port write stores at the PPU address of `v`, by region, and advances `v`. Every other byte of
nametable RAM and every other palette entry reads as before, and the buffer is unchanged. -/
def Obligations.DataPortWriteStoresByRegion : Prop :=
  ∀ (a : Addr) (d : Byte) (s : State) (va : PpuAddr) (v' : VramReg),
    va.toNat = s.machine.ppu.v.toNat % 0x4000 →
    v'.toNat = (s.machine.ppu.v.toNat + (if s.machine.ppu.ctrl.getLsbD 2 then 32 else 1)) % 0x8000 →
    ∃ (vram : Memory 8) (palette : Memory 6),
      exec (.ppuDataWr a d) s = .next { s with
        result := .none
        machine := { s.machine with
          cart := if va.toNat < 0x2000 then s.machine.cart.map (fun k => mapPpuWrite Config.cfg k va d)
                  else s.machine.cart
          ppu := { s.machine.ppu with vram := vram, palette := palette, v := v' }
          bus := { s.machine.bus with openBus := d } } } ∧
      (∀ b, Memory.read vram b =
        if 0x2000 ≤ va.toNat ∧ va.toNat < 0x3F00 ∧ b = ntMap (mapMirrorMode Config.cfg s.machine.cart) va then d
        else Memory.read s.machine.ppu.vram b) ∧
      (∀ b, Memory.read palette b =
        if 0x3F00 ≤ va.toNat ∧ b = palIndex va then d.setWidth 6 else Memory.read s.machine.ppu.palette b)

/-! ## PPU-side memory -/

/-- R254, R255, R256: the palette entry an address reaches, its read and its write; every other entry reads as
before. -/
def Obligations.PaletteAccessReachesMirroredEntry : Prop :=
  ∀ (a : PpuAddr) (d : Byte) (s : State),
    palIndex a = (if a.toNat % 4 = 0 then a.toNat % 16 else a.toNat % 32) ∧
    (∃ b : Byte, b.toNat = (Memory.read s.machine.ppu.palette (palIndex a)).toNat ∧
      exec (.paletteRd a) s = .next { s with result := .byte b }) ∧
    (∃ palette : Memory 6,
      exec (.paletteWr a d) s = .next { s with
        result := .none
        machine := { s.machine with ppu := { s.machine.ppu with palette := palette } } } ∧
      ∀ i, (Memory.read palette i).toNat =
        if i = palIndex a then d.toNat % 64 else (Memory.read s.machine.ppu.palette i).toNat)

/-- R253, R257: the byte of nametable RAM an address reaches in each mirroring mode, its read and its write; every
other byte reads as before. -/
def Obligations.NametableAccessReachesMirroredByte : Prop :=
  ∀ (a : PpuAddr) (d : Byte) (s : State), ∃ n : Nat,
    n = (match mapMirrorMode Config.cfg s.machine.cart with
      | .horizontal => a.toNat / 2048 % 2 * 1024
      | .vertical => a.toNat / 1024 % 2 * 1024
      | .singleLower => 0
      | .singleUpper => 1024
      | .fourScreen => a.toNat / 1024 % 4 * 1024) + a.toNat % 1024 ∧
    n = ntMap (mapMirrorMode Config.cfg s.machine.cart) a ∧
    exec (.nametableRd a) s = .next { s with result := .byte (Memory.read s.machine.ppu.vram n) } ∧
    ∃ vram : Memory 8,
      exec (.nametableWr a d) s = .next { s with
        result := .none
        machine := { s.machine with ppu := { s.machine.ppu with vram := vram } } } ∧
      ∀ b, Memory.read vram b = if b = n then d else Memory.read s.machine.ppu.vram b

/-! ## The dot machine -/

/-- R305, R306, R402: the flag events of the two dots; the NMI latch is set exactly when the enable bit is. That the enable
bit is bit 7 (R141) is the spec's G2 and D12, followed under log 19. -/
def Obligations.FlagEventsSetAndClear : Prop :=
  ∀ s : State,
    exec .vblSet s = .next { s with
      result := .none
      machine := { s.machine with
        ppu := { s.machine.ppu with vblank := true }
        cpu := { s.machine.cpu with
          nmiPending := s.machine.cpu.nmiPending || s.machine.ppu.ctrl.getLsbD 7 } } } ∧
    exec .flagsClr s = .next { s with
      result := .none
      machine := { s.machine with
        ppu := { s.machine.ppu with vblank := false, sprite0Hit := false, overflow := false } } }

/-- R402: what `AssertNmi` does, that `VBL.SET` does it (R305), and that nothing else does: no other dot event, no CPU
cycle and no other operation raises the latch, and, apart from the core step and the commands that replace or clear the
Machine, no operation lets it fall, so clearing the vertical-blank flag or the enable bit withdraws nothing. `exec` is
machine cycles, which are three dots and a CPU cycle. -/
def Obligations.NmiLatchIsSetByVblSetAlone : Prop :=
  (∀ m : Mach, assertNmi m = { m with cpu := { m.cpu with nmiPending := true } } ∧
    assertNmi (assertNmi m) = assertNmi m) ∧
  (∀ s : State, exec .vblSet s = .next { s with
    result := .none
    machine :=
      let m := { s.machine with ppu := { s.machine.ppu with vblank := true } }
      if ctrlNmiEnable s.machine.ppu.ctrl then assertNmi m else m }) ∧
  (∀ (c : Cfg) (m : Mach),
    (ppuTick c m).cpu.nmiPending = (m.cpu.nmiPending ||
      (decide (m.ppu.scanline = 241 ∧ m.ppu.cycle = 1) && ctrlNmiEnable m.ppu.ctrl)) ∧
    ((cpuCycle c m).cpu.nmiPending = true → m.cpu.nmiPending = true)) ∧
  (∀ (i : Instr) (s s' : State), (∀ t, i ≠ .hostExec t) → (∀ v n, i ≠ .hostLoadSnapshot v n) → exec i s = .next s' →
    (i ≠ .vblSet → s'.machine.cpu.nmiPending = true → s.machine.cpu.nmiPending = true) ∧
    (i ≠ .cpuStep → i ≠ .hostInit → i ≠ .hostReset →
      s.machine.cpu.nmiPending = true → s'.machine.cpu.nmiPending = true))

/-- R273, R274: the background pixel of a column is the shift registers' bit at 15 minus fine X, and the sprite pixel is
that of the first unit with an opaque pixel there; both are transparent where their layer is off or clipped. The column of
a unit is the spec's decision D23, the arrangement of the shift registers its D21 and G4, the mask and attribute bits its
G2, all followed under log 19. -/
def Obligations.PixelInputsFollowShiftersAndUnits : Prop :=
  ∀ (p : Ppu) (x : Nat),
    (p.mask.getLsbD 3 = true ∧ (p.mask.getLsbD 1 = true ∨ 8 ≤ x) →
      (bgPixel p x).p.toNat = 2 * (p.bgHi.toNat / 2 ^ (15 - p.x.toNat) % 2) + p.bgLo.toNat / 2 ^ (15 - p.x.toNat) % 2 ∧
      (bgPixel p x).s.toNat = 2 * (p.atHi.toNat / 2 ^ (15 - p.x.toNat) % 2) + p.atLo.toNat / 2 ^ (15 - p.x.toNat) % 2) ∧
    (¬(p.mask.getLsbD 3 = true ∧ (p.mask.getLsbD 1 = true ∨ 8 ≤ x)) →
      (bgPixel p x).p = 0 ∧ (bgPixel p x).s = 0) ∧
    (p.mask.getLsbD 4 = true ∧ (p.mask.getLsbD 2 = true ∨ 8 ≤ x) →
      (∀ (i : Nat) (u : SpriteUnit), i < p.spCount → p.sp[i]? = some u → unitPixel u x ≠ 0 →
        (∀ (j : Nat) (w : SpriteUnit), j < i → p.sp[j]? = some w → unitPixel w x = 0) →
        spPixel p x = { p := unitPixel u x, q := u.attr.extractLsb' 0 2, behind := u.attr.getLsbD 5,
                        isZero := i == 0 && p.spZero }) ∧
      ((∀ (i : Nat) (u : SpriteUnit), i < p.spCount → p.sp[i]? = some u → unitPixel u x = 0) →
        spPixel p x = { p := 0, q := 0, behind := false, isZero := false })) ∧
    (¬(p.mask.getLsbD 4 = true ∧ (p.mask.getLsbD 2 = true ∨ 8 ≤ x)) →
      spPixel p x = { p := 0, q := 0, behind := false, isZero := false }) ∧
    (∀ u : SpriteUnit, (unitPixel u x).toNat =
      if u.x.toNat ≤ x ∧ x ≤ u.x.toNat + 7 then
        2 * (u.hi.toNat / 2 ^ (7 - (x - u.x.toNat)) % 2) + u.lo.toNat / 2 ^ (7 - (x - u.x.toNat)) % 2
      else 0)

/-- R275, R276, R277: the pixel shown by the truth table of R275, the sprite-0 hit, grayscale, and the one frame-buffer
entry written; every other entry reads as before. That column 255 may hit is the spec's decision D24, the grayscale mask,
the row of 256 and the unused emphasis bits its D29, the palette's indexing its G2, all followed under log 19. -/
def Obligations.PixelComposesAndStores : Prop :=
  ∀ s : State, ∃ (fb : Memory 6) (entry : Nat),
    let p := s.machine.ppu
    let x := p.cycle - 1
    let bg := bgPixel p x
    let sp := spPixel p x
    exec .pixel s = .next { s with
      result := .none
      machine := { s.machine with
        ppu := { p with
          fb := fb
          sprite0Hit := p.sprite0Hit || (bg.p != 0 && sp.p != 0 && sp.isZero) } } } ∧
    (bg.p = 0 → sp.p = 0 → entry = 0) ∧
    (bg.p = 0 → sp.p ≠ 0 → entry = 16 + 4 * sp.q.toNat + sp.p.toNat) ∧
    (bg.p ≠ 0 → sp.p = 0 → entry = 4 * bg.s.toNat + bg.p.toNat) ∧
    (bg.p ≠ 0 → sp.p ≠ 0 → sp.behind = false → entry = 16 + 4 * sp.q.toNat + sp.p.toNat) ∧
    (bg.p ≠ 0 → sp.p ≠ 0 → sp.behind = true → entry = 4 * bg.s.toNat + bg.p.toNat) ∧
    (∀ b, Memory.read fb b =
      if b = p.scanline * 256 + x then
        (if p.mask.getLsbD 0 then Memory.read p.palette entry &&& 0x30 else Memory.read p.palette entry)
      else Memory.read p.fb b)

/-- R278, R283: the shift doubles each register modulo 0x10000; the reload replaces the low byte of each. -/
def Obligations.ShiftAndReloadOfBackgroundRegisters : Prop :=
  ∀ s : State,
    (∃ lo hi al ah : BitVec 16,
      exec .bgShift s = .next { s with
        result := .none
        machine := { s.machine with
          ppu := { s.machine.ppu with bgLo := lo, bgHi := hi, atLo := al, atHi := ah } } } ∧
      lo.toNat = 2 * s.machine.ppu.bgLo.toNat % 0x10000 ∧ hi.toNat = 2 * s.machine.ppu.bgHi.toNat % 0x10000 ∧
      al.toNat = 2 * s.machine.ppu.atLo.toNat % 0x10000 ∧ ah.toNat = 2 * s.machine.ppu.atHi.toNat % 0x10000) ∧
    (∃ lo hi al ah : BitVec 16,
      exec .bgReload s = .next { s with
        result := .none
        machine := { s.machine with
          ppu := { s.machine.ppu with bgLo := lo, bgHi := hi, atLo := al, atHi := ah } } } ∧
      lo.toNat = s.machine.ppu.bgLo.toNat / 256 * 256 + s.machine.ppu.ptLo.toNat ∧
      hi.toNat = s.machine.ppu.bgHi.toNat / 256 * 256 + s.machine.ppu.ptHi.toNat ∧
      al.toNat = s.machine.ppu.atLo.toNat / 256 * 256 + (if s.machine.ppu.atBits.getLsbD 0 then 255 else 0) ∧
      ah.toNat = s.machine.ppu.atHi.toNat / 256 * 256 + (if s.machine.ppu.atBits.getLsbD 1 then 255 else 0))

/-- R279 to R282, R288: the five fetches, each a read of PPU memory at the address computed from `v`, `ctrl` and the
tile byte; only its latch (and a variant's own registers) change. -/
def Obligations.BackgroundFetchesReadComputedAddresses : Prop :=
  ∀ (s : State) (nt at' lo hi : PpuAddr),
    let p := s.machine.ppu
    let v := p.v.toNat
    nt.toNat = 0x2000 + v % 0x1000 →
    at'.toNat = 0x23C0 + v / 0x400 % 4 * 0x400 + v / 128 % 8 * 8 + v / 4 % 8 →
    lo.toNat = (if p.ctrl.getLsbD 4 then 0x1000 else 0) + p.ntByte.toNat * 16 + v / 0x1000 →
    hi.toNat = lo.toNat + 8 →
    exec .bgFetchNt s = .next { s with
      result := .none
      machine := { s.machine with
        cart := (ppuRead Config.cfg nt s.machine).2.cart
        ppu := { p with ntByte := (ppuRead Config.cfg nt s.machine).1 } } } ∧
    (∃ bits : BitVec 2,
      exec .bgFetchAt s = .next { s with
        result := .none
        machine := { s.machine with
          cart := (ppuRead Config.cfg at' s.machine).2.cart
          ppu := { p with atBits := bits } } } ∧
      bits.toNat = (ppuRead Config.cfg at' s.machine).1.toNat / 2 ^ (4 * (v / 64 % 2) + 2 * (v / 2 % 2)) % 4) ∧
    exec .bgFetchLo s = .next { s with
      result := .none
      machine := { s.machine with
        cart := (ppuRead Config.cfg lo s.machine).2.cart
        ppu := { p with ptLo := (ppuRead Config.cfg lo s.machine).1 } } } ∧
    exec .bgFetchHi s = .next { s with
      result := .none
      machine := { s.machine with
        cart := (ppuRead Config.cfg hi s.machine).2.cart
        ppu := { p with ptHi := (ppuRead Config.cfg hi s.machine).1 } } } ∧
    exec .bgDummyNt s = .next { s with
      result := .none
      machine := { s.machine with
        cart := (ppuRead Config.cfg nt s.machine).2.cart
        ppu := { p with ntByte := (ppuRead Config.cfg nt s.machine).1 } } }

/-- R284, R285: the two increments, on the fields of `v` as numbers. R286, R287: the two copies from `t`, bit by bit. -/
def Obligations.VramIncrementsAndCopies : Prop :=
  (∀ s : State,
     let v := s.machine.ppu.v.toNat
     (∃ v' : VramReg,
       exec .vIncX s = .next { s with
         result := .none, machine := { s.machine with ppu := { s.machine.ppu with v := v' } } } ∧
       (v % 32 = 31 → v'.toNat = v / 2048 * 2048 + (1 - v / 1024 % 2) * 1024 + v / 32 % 32 * 32) ∧
       (v % 32 ≠ 31 → v'.toNat = v + 1)) ∧
     (∃ v' : VramReg,
       exec .vIncY s = .next { s with
         result := .none, machine := { s.machine with ppu := { s.machine.ppu with v := v' } } } ∧
       (v / 4096 < 7 → v'.toNat = v + 4096) ∧
       (v / 4096 = 7 → v / 32 % 32 = 29 → v'.toNat = (1 - v / 2048 % 2) * 2048 + v / 1024 % 2 * 1024 + v % 32) ∧
       (v / 4096 = 7 → v / 32 % 32 = 31 → v'.toNat = v / 1024 % 4 * 1024 + v % 32) ∧
       (v / 4096 = 7 → v / 32 % 32 ≠ 29 → v / 32 % 32 ≠ 31 → v'.toNat = v % 4096 + 32))) ∧
  (∀ s : State,
     (∃ v' : VramReg,
       exec .vCopyX s = .next { s with
         result := .none, machine := { s.machine with ppu := { s.machine.ppu with v := v' } } } ∧
       ∀ i, v'.getLsbD i =
         if i < 5 ∨ i = 10 then s.machine.ppu.t.getLsbD i else s.machine.ppu.v.getLsbD i) ∧
     (∃ v' : VramReg,
       exec .vCopyY s = .next { s with
         result := .none, machine := { s.machine with ppu := { s.machine.ppu with v := v' } } } ∧
       ∀ i, v'.getLsbD i =
         if (5 ≤ i ∧ i < 10) ∨ (11 ≤ i ∧ i < 15) then s.machine.ppu.t.getLsbD i else s.machine.ppu.v.getLsbD i))

/-- R296, R297: a sprite evaluation counts the OAM entries in range, at most eight, sets the overflow flag exactly when a
ninth is in range, and notes whether entry 0 is; nothing else changes but the units and a variant's own registers. -/
def Obligations.SpriteEvaluationCountsEntries : Prop :=
  ∀ s : State, ∃ t : State,
    let p := s.machine.ppu
    let h := if p.ctrl.getLsbD 5 then 16 else 8
    let inRange := fun e => let y := (Memory.read p.oam (4 * e)).toNat
      decide (y ≤ p.scanline ∧ p.scanline < y + h)
    let count := ((List.range 64).filter inRange).length
    exec .spLoad s = .next t ∧
    t = { s with
      result := .none
      machine := { s.machine with
        cart := t.machine.cart
        ppu := { p with
          sp := t.machine.ppu.sp
          spCount := min 8 count
          overflow := p.overflow || decide (8 < count)
          spZero := inRange 0 } } }

/-- R298, R299, R300: the unit of the n-th entry in range holds its x, its attributes and its two pattern bytes, the low
plane read before the high one, flipped as the attributes ask. The entries are loaded in order, so a read sees what the
reads before it left of the cartridge, whatever the variant. The premises say that there are eight units (R34) and what
the addresses of R298 are. -/
def Obligations.SpriteUnitsHoldTheChosenEntries : Prop :=
  ∀ (s t : State) (lowAddr highAddr : Nat → PpuAddr) (chosen : List Nat),
    let p := s.machine.ppu
    let h := if p.ctrl.getLsbD 5 then 16 else 8
    let tile := fun e => (Memory.read p.oam (4 * e + 1)).toNat
    let attr := fun e => Memory.read p.oam (4 * e + 2)
    let row := fun e => p.scanline - (Memory.read p.oam (4 * e)).toNat
    let r := fun e => if (attr e).getLsbD 7 then h - 1 - row e else row e
    let readLow := fun (m : Mach) e => ppuRead Config.cfg (lowAddr e) m
    let readHigh := fun (m : Mach) e => ppuRead Config.cfg (highAddr e) (readLow m e).2
    let before := fun n => (chosen.take n).foldl (fun m e => (readHigh m e).2) s.machine
    p.sp.length = 8 →
    chosen = (List.range 64).filter (fun e => let y := (Memory.read p.oam (4 * e)).toNat
      decide (y ≤ p.scanline ∧ p.scanline < y + h)) →
    (∀ e ∈ chosen, (lowAddr e).toNat =
        (if p.ctrl.getLsbD 5 then tile e % 2 * 0x1000 + (tile e / 2 * 2 + r e / 8) * 16 + r e % 8
         else (if p.ctrl.getLsbD 3 then 0x1000 else 0) + tile e * 16 + r e) ∧
      (highAddr e).toNat = (lowAddr e).toNat + 8) →
    exec .spLoad s = .next t →
    t.machine.cart = (before 8).cart ∧
    ∀ n e, n < 8 → chosen[n]? = some e →
      ∃ lo hi : Byte,
        t.machine.ppu.sp[n]? = some { x := Memory.read p.oam (4 * e + 3), attr := attr e, lo := lo, hi := hi } ∧
        ∀ j, j < 8 →
          lo.getLsbD j = (readLow (before n) e).1.getLsbD (if (attr e).getLsbD 6 then 7 - j else j) ∧
          hi.getLsbD j = (readHigh (before n) e).1.getLsbD (if (attr e).getLsbD 6 then 7 - j else j)

/-- R300, R307, R308: the clearing of the sprite units and the two position steps. -/
def Obligations.SpriteClearAndPositionSteps : Prop :=
  ∀ s : State,
    exec .spClear s = .next { s with
      result := .none
      machine := { s.machine with ppu := { s.machine.ppu with spCount := 0, spZero := false } } } ∧
    (s.machine.ppu.cycle < 340 → exec .posAdvance s = .next { s with
      result := .none
      machine := { s.machine with ppu := { s.machine.ppu with cycle := s.machine.ppu.cycle + 1 } } }) ∧
    (340 ≤ s.machine.ppu.cycle → s.machine.ppu.scanline < 261 → exec .posAdvance s = .next { s with
      result := .none
      machine := { s.machine with
        ppu := { s.machine.ppu with cycle := 0, scanline := s.machine.ppu.scanline + 1 } } }) ∧
    (340 ≤ s.machine.ppu.cycle → 261 ≤ s.machine.ppu.scanline → exec .posAdvance s = .next { s with
      result := .none
      machine := { s.machine with
        ppu := { s.machine.ppu with cycle := 0, scanline := 0, frame := s.machine.ppu.frame + 1 } } }) ∧
    exec .posSkip s = .next { s with
      result := .none
      machine := { s.machine with
        ppu := { s.machine.ppu with cycle := 0, scanline := 0, frame := s.machine.ppu.frame + 1 } } }

/-- R270: a dot is exactly the operations whose selectors hold at it, in the fixed order, at every position of the
frame. -/
def Obligations.DotRunsSelectedOperationsInOrder : Prop :=
  ∀ s : State, s.machine.ppu.scanline ≤ 261 → s.machine.ppu.cycle ≤ 340 →
    ∃ t : State, runSelected s.machine dotOrder s = .next t ∧
      t = { s with result := .none, machine := ppuTick Config.cfg s.machine }

/-- R309: an even frame is 89342 dots and an odd frame 89341; the position advances by one dot at a time within the
frame and wraps exactly once, at its end. -/
def Obligations.FrameTakesItsNumberOfDots : Prop :=
  ∀ (c : Cfg) (m : Mach), m.ppu.scanline = 0 → m.ppu.cycle = 0 →
    let n := if m.ppu.frame % 2 = 0 then 89342 else 89341
    (∀ k, k < n → ((ppuTick c)^[k] m).ppu.frame = m.ppu.frame ∧
      ((ppuTick c)^[k] m).ppu.scanline * 341 + ((ppuTick c)^[k] m).ppu.cycle = k ∧
      ((ppuTick c)^[k] m).ppu.cycle ≤ 340) ∧
    ((ppuTick c)^[n] m).ppu.frame = m.ppu.frame + 1 ∧ ((ppuTick c)^[n] m).ppu.scanline = 0 ∧
    ((ppuTick c)^[n] m).ppu.cycle = 0

/-- R305, R306, R38, R402, R476: in one dot, the vertical-blank flag and the NMI latch change at dot (241, 1) and the
three flags fall at (261, 1), and at no other dot; the sprite-0 flag may rise only at a dot that draws a pixel (R276) and
the overflow flag only at an evaluation (R297); and a dot leaves the processor's side, the memories other than the frame
buffer, and the ports as they were. -/
def Obligations.DotChangesFlagsOnlyAtTheirDots : Prop :=
  ∀ (c : Cfg) (m : Mach),
    let t := ppuTick c m
    let setDot := decide (m.ppu.scanline = 241 ∧ m.ppu.cycle = 1)
    let clrDot := decide (m.ppu.scanline = 261 ∧ m.ppu.cycle = 1)
    t.ppu.vblank = (setDot || (m.ppu.vblank && !clrDot)) ∧
    t.cpu = { m.cpu with nmiPending := m.cpu.nmiPending || (setDot && m.ppu.ctrl.getLsbD 7) } ∧
    (clrDot = true → t.ppu.sprite0Hit = false ∧ t.ppu.overflow = false) ∧
    (clrDot = false → (m.ppu.sprite0Hit = true → t.ppu.sprite0Hit = true) ∧
      (m.ppu.overflow = true → t.ppu.overflow = true)) ∧
    (m.ppu.sprite0Hit = false → t.ppu.sprite0Hit = true →
      m.ppu.scanline ≤ 239 ∧ 1 ≤ m.ppu.cycle ∧ m.ppu.cycle ≤ 256) ∧
    (m.ppu.overflow = false → t.ppu.overflow = true →
      m.ppu.scanline ≤ 239 ∧ m.ppu.cycle = 257 ∧ (m.ppu.mask.getLsbD 3 = true ∨ m.ppu.mask.getLsbD 4 = true)) ∧
    (t.core = m.core ∧ t.dma = m.dma ∧ t.bus = m.bus ∧ t.pad0 = m.pad0 ∧ t.pad1 = m.pad1 ∧ t.audio = m.audio) ∧
    (t.ppu.ctrl = m.ppu.ctrl ∧ t.ppu.mask = m.ppu.mask ∧ t.ppu.oamAddr = m.ppu.oamAddr ∧ t.ppu.t = m.ppu.t ∧
      t.ppu.x = m.ppu.x ∧ t.ppu.w = m.ppu.w ∧ t.ppu.readBuffer = m.ppu.readBuffer ∧ t.ppu.oam = m.ppu.oam ∧
      t.ppu.vram = m.ppu.vram ∧ t.ppu.palette = m.ppu.palette)

/-! ## The processor driver -/

/-- R382, R389, R390: a burn cycle, the start of a transfer, and a wait cycle. -/
def Obligations.BurnStartAndWaitCycles : Prop :=
  ∀ s : State,
    exec .cpuBurn s = .next { s with
      result := .none
      machine := { s.machine with cpu := { s.machine.cpu with busy := s.machine.cpu.busy - 1 } } } ∧
    exec .dmaStart s = .next { s with
      result := .none
      machine := { s.machine with
        dma := { s.machine.dma with
          request := false, active := true, wait := if s.machine.cpu.cycles % 2 = 0 then 1 else 2
          index := 0, phase := .read } } } ∧
    exec .dmaWait s = .next { s with
      result := .none
      machine := { s.machine with dma := { s.machine.dma with wait := s.machine.dma.wait - 1 } } }

/-- R383, R384, R387, R395, R480: a core step runs one program of the core over the bus: its NMI entry if an NMI is
pending, else its IRQ entry if the IRQ line is up and the core permits it, else one instruction. It installs the core's
new state, leaves its cycles less one to burn and no NMI pending, so that after an NMI entry the IRQ line is there to be
presented again; the rest of the driver's state is unchanged. -/
def Obligations.CoreStepRunsProgramAndClearsNmi : Prop :=
  ∀ s : State, ∃ (pr : Prog) (r : (Opaque × Nat) × Mach),
    let input : CoreIn := { nmi := s.machine.cpu.nmiPending, irq := s.machine.cpu.irqLine }
    (s.machine.cpu.nmiPending = true → pr = Config.cfg.core.nmiEntry s.machine.core input) ∧
    (s.machine.cpu.nmiPending = false → s.machine.cpu.irqLine = true →
      Config.cfg.core.irqPermitted s.machine.core = true → pr = Config.cfg.core.irqEntry s.machine.core input) ∧
    (s.machine.cpu.nmiPending = false →
      (s.machine.cpu.irqLine = false ∨ Config.cfg.core.irqPermitted s.machine.core = false) →
      pr = Config.cfg.core.instruction s.machine.core input) ∧
    r = runProg Config.cfg pr s.machine ∧
    1 ≤ r.1.2 ∧
    exec .cpuStep s = .next { s with
      result := .none
      machine := { r.2 with
        core := r.1.1
        cpu := { s.machine.cpu with busy := r.1.2 - 1, nmiPending := false } } }

/-- R383, R386: what running a core program does: a read is a bus read of its address, whose byte answers it; a write is
a bus write; each is complete before the next; the end gives the core's new state and a cycle count of at least 1. So the
program reaches the rest of the Machine by the accesses of its trace only, in program order, and it never touches the
driver, the core's state, the picture generator's position, the frame buffer or a controller's live buttons. That the end
of a program counts `extra + 1` cycles is the model's (log 6); that the core is a parameter whose count is at least 1 is
the spec's D3 and D34 (log 19). -/
def Obligations.CoreProgramActsThroughTheBusOnly : Prop :=
  (∀ (c : Cfg) (core : Opaque) (extra : Nat) (m : Mach),
    runProg c (.done core extra) m = ((core, extra + 1), m) ∧ busTrace c (.done core extra) m = []) ∧
  (∀ (c : Cfg) (a : Addr) (k : Byte → Prog) (m : Mach), ∃ (b : Byte) (m' : Mach), busRead c a m = (b, m') ∧
    runProg c (.read a k) m = runProg c (k b) m' ∧ busTrace c (.read a k) m = (a, none) :: busTrace c (k b) m') ∧
  (∀ (c : Cfg) (a : Addr) (d : Byte) (k : Prog) (m : Mach),
    runProg c (.write a d k) m = runProg c k (busWrite c a d m) ∧
    busTrace c (.write a d k) m = (a, some d) :: busTrace c k (busWrite c a d m)) ∧
  (∀ (c : Cfg) (pr : Prog) (m : Mach),
    (runProg c pr m).2 = (busTrace c pr m).foldl (fun x e => match e.2 with
      | none => (busRead c e.1 x).2
      | some d => busWrite c e.1 d x) m ∧
    1 ≤ (runProg c pr m).1.2 ∧
    (runProg c pr m).2.core = m.core ∧ (runProg c pr m).2.cpu = m.cpu ∧
    (runProg c pr m).2.ppu.scanline = m.ppu.scanline ∧ (runProg c pr m).2.ppu.cycle = m.ppu.cycle ∧
    (runProg c pr m).2.ppu.frame = m.ppu.frame ∧ (runProg c pr m).2.ppu.fb = m.ppu.fb ∧
    (runProg c pr m).2.pad0.live = m.pad0.live ∧ (runProg c pr m).2.pad1.live = m.pad1.live)

/-- R135, R381, R388, R394, R400: exactly one of the six driver operations is selected in any state, and a CPU cycle is
the sampling of the IRQ level, the audio tick, that operation (with a wait after a start), and the count of the cycle. -/
def Obligations.CpuCycleRunsTheOneSelectedOperation : Prop :=
  ∀ s : State, ∃ (i : Instr) (t : State),
    let s1 := { s with machine := { s.machine with
      cpu := { s.machine.cpu with
        irqLine := Config.cfg.audio.irq s.machine.audio || mapIrqPending Config.cfg s.machine.cart }
      audio := Config.cfg.audio.tick s.machine.audio } }
    driverOperations.filter (fun j => selected j s.machine) = [i] ∧
    exec i s1 = .next t ∧
    (i ≠ .dmaStart → cpuCycle Config.cfg s.machine =
      { t.machine with cpu := { t.machine.cpu with cycles := s.machine.cpu.cycles + 1 } }) ∧
    (i = .dmaStart → ∃ t', exec .dmaWait t = .next t' ∧ cpuCycle Config.cfg s.machine =
      { t'.machine with cpu := { t'.machine.cpu with cycles := s.machine.cpu.cycles + 1 } })

/-- R401, R392: a transfer takes 513 machine cycles from an even CPU cycle and 514 from an odd one, the core not stepping
meanwhile; from a page in RAM it copies the page's 256 bytes in ascending OAM order from the OAM address on. -/
def Obligations.OamDmaStallsAndCopiesThePage : Prop :=
  ∀ m : Mach, m.cpu.busy = 0 → m.dma.request = true → m.dma.active = false →
    let n := if m.cpu.cycles % 2 = 0 then Config.dmaCyclesEven else Config.dmaCyclesOdd
    let m' := (machineCycle Config.cfg)^[n] m
    (∀ k, 0 < k → k < n → ((machineCycle Config.cfg)^[k] m).dma.active = true) ∧
    m'.dma.active = false ∧ m'.dma.request = false ∧ m'.core = m.core ∧ m'.cpu.busy = 0 ∧
    m'.cpu.cycles = m.cpu.cycles + n ∧
    (m.dma.page.toNat < 0x20 →
      m'.bus.ram = m.bus.ram ∧ m'.ppu.oamAddr = m.ppu.oamAddr ∧
      ∀ i, i < 256 → Memory.read m'.ppu.oam ((m.ppu.oamAddr.toNat + i) % 256) =
        Memory.read m.bus.ram ((m.dma.page.toNat * 256 + i) % 2048))

/-- R380, R97: a machine cycle is three dots, then one CPU cycle (the spec's D2). R397: `exec` runs whole machine cycles,
as many as it reports; the budget is met by exact integer arithmetic, where it is above 0 it stops at a unit boundary, and
no earlier unit boundary met the budget (the spec's D35). R399: the position it leaves is that of three times as many
dots. The decisions are followed under log 19. -/
def Obligations.ExecRunsUnitsUntilBudgetIsMet : Prop :=
  (∀ (c : Cfg) (m : Mach), machineCycle c m = cpuCycle c (ppuTick c (ppuTick c (ppuTick c m)))) ∧
  (∀ (t : Nat) (s : State), exec (.hostExec t) s = .next { s with
    result := .ticks (execTime Config.cfg t s.machine).1
    machine := (machineCycle Config.cfg)^[(execTime Config.cfg t s.machine).1] s.machine }) ∧
  (∀ (c : Cfg) (t : Nat) (m : Mach),
    let n := (execTime c t m).1
    (execTime c t m).2 = (machineCycle c)^[n] m ∧
    t * c.cpuHz ≤ n * 1000000 ∧
    (0 < t * c.cpuHz → ((machineCycle c)^[n] m).cpu.busy = 0) ∧
    (∀ j, j < n → t * c.cpuHz ≤ j * 1000000 → ((machineCycle c)^[j] m).cpu.busy ≠ 0)) ∧
  (∀ (c : Cfg) (t : Nat) (m : Mach),
    let p := (execTime c t m).2.ppu
    let q := ((ppuTick c)^[3 * (execTime c t m).1] m).ppu
    p.scanline = q.scanline ∧ p.cycle = q.cycle ∧ p.frame = q.frame)

/-! ## Mapper variants -/

/-- R351 to R354: the capabilities of `Nrom` on an inserted cartridge of that variant, at every address (R135). -/
def Obligations.NromCapabilities : Prop :=
  ∀ (a : Addr) (q : PpuAddr) (d : Byte) (s : State) (k : Cartridge),
    s.machine.cart = some k → k.mapper = .nrom →
    exec (.nromCpuRead a) s = .next { s with
      result := .optByte (
        if a.toNat < 0x6000 then none
        else if a.toNat < 0x8000 then some (Memory.read k.prgRam ((a.toNat - 0x6000) % Config.cfg.prgRamSize))
        else some (Memory.read k.prgRom ((a.toNat - 0x8000) % (k.header.prgBanks.toNat * 16384)))) } ∧
    (∃ ram : Memory 8,
      exec (.nromCpuWrite a d) s = .next { s with
        result := .none, machine := { s.machine with cart := some { k with prgRam := ram } } } ∧
      ∀ b, Memory.read ram b =
        if 0x6000 ≤ a.toNat ∧ a.toNat < 0x8000 ∧ b = (a.toNat - 0x6000) % Config.cfg.prgRamSize then d
        else Memory.read k.prgRam b) ∧
    exec (.nromPpuRead q) s = .next { s with result := .optByte (if q.toNat < 0x2000 then some (Memory.read k.chr q.toNat) else none) } ∧
    (∃ chr : Memory 8,
      exec (.nromPpuWrite q d) s = .next { s with
        result := .none, machine := { s.machine with cart := some { k with chr := chr } } } ∧
      ∀ b, Memory.read chr b =
        if k.chrIsRam = true ∧ q.toNat < 0x2000 ∧ b = q.toNat then d else Memory.read k.chr b)

/-- R355 to R357: the capabilities of `Uxrom`: one switchable program bank, the last bank fixed; every address (R135). -/
def Obligations.UxromCapabilities : Prop :=
  ∀ (a : Addr) (q : PpuAddr) (d bank : Byte) (s : State) (k : Cartridge),
    s.machine.cart = some k → k.mapper = .uxrom bank →
    exec (.uxromCpuRead a) s = .next { s with
      result := .optByte (
        if a.toNat < 0x6000 then none
        else if a.toNat < 0x8000 then some (Memory.read k.prgRam ((a.toNat - 0x6000) % Config.cfg.prgRamSize))
        else if a.toNat < 0xC000 then
          some (Memory.read k.prgRom (bank.toNat % k.header.prgBanks.toNat * 16384 + (a.toNat - 0x8000)))
        else some (Memory.read k.prgRom ((k.header.prgBanks.toNat - 1) * 16384 + (a.toNat - 0xC000)))) } ∧
    (∃ ram : Memory 8,
      exec (.uxromCpuWrite a d) s = .next { s with
        result := .none
        machine := { s.machine with cart := some { k with
          prgRam := ram, mapper := .uxrom (if 0x8000 ≤ a.toNat then d else bank) } } } ∧
      ∀ b, Memory.read ram b =
        if 0x6000 ≤ a.toNat ∧ a.toNat < 0x8000 ∧ b = (a.toNat - 0x6000) % Config.cfg.prgRamSize then d
        else Memory.read k.prgRam b) ∧
    exec (.uxromPpuRead q) s = .next { s with result := .optByte (if q.toNat < 0x2000 then some (Memory.read k.chr q.toNat) else none) } ∧
    (∃ chr : Memory 8,
      exec (.uxromPpuWrite q d) s = .next { s with
        result := .none, machine := { s.machine with cart := some { k with chr := chr } } } ∧
      ∀ b, Memory.read chr b =
        if k.chrIsRam = true ∧ q.toNat < 0x2000 ∧ b = q.toNat then d else Memory.read k.chr b)

/-- R358 to R361: the capabilities of `Cnrom`: fixed program banks, one switchable graphics bank; every address (R135). -/
def Obligations.CnromCapabilities : Prop :=
  ∀ (a : Addr) (q : PpuAddr) (d bank : Byte) (s : State) (k : Cartridge),
    s.machine.cart = some k → k.mapper = .cnrom bank →
    exec (.cnromCpuRead a) s = .next { s with
      result := .optByte (
        if a.toNat < 0x6000 then none
        else if a.toNat < 0x8000 then some (Memory.read k.prgRam ((a.toNat - 0x6000) % Config.cfg.prgRamSize))
        else some (Memory.read k.prgRom ((a.toNat - 0x8000) % (k.header.prgBanks.toNat * 16384)))) } ∧
    (∃ ram : Memory 8,
      exec (.cnromCpuWrite a d) s = .next { s with
        result := .none
        machine := { s.machine with cart := some { k with
          prgRam := ram, mapper := .cnrom (if 0x8000 ≤ a.toNat then d else bank) } } } ∧
      ∀ b, Memory.read ram b =
        if 0x6000 ≤ a.toNat ∧ a.toNat < 0x8000 ∧ b = (a.toNat - 0x6000) % Config.cfg.prgRamSize then d
        else Memory.read k.prgRam b) ∧
    exec (.cnromPpuRead q) s = .next { s with
      result := .optByte (if q.toNat < 0x2000 then
          some (Memory.read k.chr (bank.toNat % max k.header.chrBanks.toNat 1 * 8192 + q.toNat))
        else none) } ∧
    (∃ chr : Memory 8,
      exec (.cnromPpuWrite q d) s = .next { s with
        result := .none, machine := { s.machine with cart := some { k with chr := chr } } } ∧
      ∀ b, Memory.read chr b =
        if k.chrIsRam = true ∧ q.toNat < 0x2000 ∧ b = q.toNat then d else Memory.read k.chr b)

/-- R362, R349: the mirroring mode and the mapper's IRQ level, without a cartridge, for the reference variants, and for a
further variant with and without the capability; both change nothing. R363: the IRQ level depends on
the variant's registers only, whatever the work RAM and the graphics memory hold. -/
def Obligations.MirrorModeAndIrqOfTheCartridge : Prop :=
  (∀ s : State,
    exec .mirrorMode s = .next { s with result := .mode (mapMirrorMode Config.cfg s.machine.cart) } ∧
    exec .irqPending s = .next { s with result := .level (mapIrqPending Config.cfg s.machine.cart) }) ∧
  (∀ c : Cfg, mapMirrorMode c none = .horizontal ∧ mapIrqPending c none = false) ∧
  (∀ (c : Cfg) (k : Cartridge), k.reference →
    mapMirrorMode c (some k) =
      (if k.header.fourScreen then .fourScreen
       else if k.header.mirroring = .vertical then .vertical else .horizontal) ∧
    mapIrqPending c (some k) = false) ∧
  (∀ (c : Cfg) (k : Cartridge) (id : Byte) (regs : Opaque) (v : VariantSpec),
    k.mapper = .further id regs → c.furtherVariant id = some v →
    (∀ f, v.mirroring = some f → mapMirrorMode c (some k) = f regs) ∧
    (v.mirroring = none → mapMirrorMode c (some k) =
      (if k.header.fourScreen then .fourScreen
       else if k.header.mirroring = .vertical then .vertical else .horizontal)) ∧
    (∀ g, v.irqPending = some g → mapIrqPending c (some k) = g regs) ∧
    (v.irqPending = none → mapIrqPending c (some k) = false)) ∧
  (∀ (c : Cfg) (k k' : Cartridge), k.mapper = k'.mapper → mapIrqPending c (some k) = mapIrqPending c (some k'))

/-- Log 14: a capability call of a variant that is not the inserted one is refused by name. -/
def Obligations.CapabilityOfAnAbsentVariantIsRefused : Prop :=
  ∀ (a : Addr) (q : PpuAddr) (d : Byte) (s : State),
    ((∀ k, s.machine.cart = some k → k.mapper ≠ .nrom) →
      exec (.nromCpuRead a) s = .refused .variantNotInserted ∧
      exec (.nromCpuWrite a d) s = .refused .variantNotInserted ∧
      exec (.nromPpuRead q) s = .refused .variantNotInserted ∧
      exec (.nromPpuWrite q d) s = .refused .variantNotInserted) ∧
    ((∀ k, s.machine.cart = some k → ∀ b, k.mapper ≠ .uxrom b) →
      exec (.uxromCpuRead a) s = .refused .variantNotInserted ∧
      exec (.uxromCpuWrite a d) s = .refused .variantNotInserted ∧
      exec (.uxromPpuRead q) s = .refused .variantNotInserted ∧
      exec (.uxromPpuWrite q d) s = .refused .variantNotInserted) ∧
    ((∀ k, s.machine.cart = some k → ∀ b, k.mapper ≠ .cnrom b) →
      exec (.cnromCpuRead a) s = .refused .variantNotInserted ∧
      exec (.cnromCpuWrite a d) s = .refused .variantNotInserted ∧
      exec (.cnromPpuRead q) s = .refused .variantNotInserted ∧
      exec (.cnromPpuWrite q d) s = .refused .variantNotInserted)

/-- R335: no operation but those that replace the cartridge or the Machine writes a cartridge's header, its program
ROM, whether its graphics memory is RAM, or a graphics ROM, whatever the variant. -/
def Obligations.CartridgeRomIsImmutable : Prop :=
  ∀ (i : Instr) (s s' : State) (k : Cartridge),
    i ≠ .hostInit → i ≠ .hostRemoveCartridge → (∀ image, i ≠ .hostInsertCart image) →
    (∀ v n, i ≠ .hostLoadSnapshot v n) →
    s.machine.cart = some k → exec i s = .next s' →
    ∃ k', s'.machine.cart = some k' ∧ k'.header = k.header ∧ k'.prgRom = k.prgRom ∧ k'.chrIsRam = k.chrIsRam ∧
      (k.chrIsRam = false → k'.chr = k.chr)

/-! ## Host commands -/

/-- R441, R442, R510: `init` gives a Machine with every field at its power-on value; `discard` ends it and leaves
everything else. What the host saved stays (log 12). -/
def Obligations.InitAndDiscard : Prop :=
  (∀ s : State, exec .hostInit s = .next { s with
    result := .none
    alive := true
    machine :=
      { core := Config.cfg.core.powerOn
        cpu := { busy := 0, nmiPending := false, irqLine := false, cycles := 0 }
        dma := { request := false, active := false, page := 0, wait := 0, index := 0, phase := .read, latch := 0 }
        bus := { ram := [], openBus := Config.cfg.openBusInit }
        pad0 := { live := 0, snapshot := 0, index := 0, strobe := false }
        pad1 := { live := 0, snapshot := 0, index := 0, strobe := false }
        audio := Config.cfg.audio.powerOn
        cart := none
        ppu := { ctrl := 0, mask := 0, vblank := false, sprite0Hit := false, overflow := false, oamAddr := 0,
                 v := 0, t := 0, x := 0, w := false, readBuffer := 0, scanline := 0, cycle := 0, frame := 0,
                 oam := [], vram := [], palette := [], ntByte := 0, atBits := 0, ptLo := 0, ptHi := 0,
                 bgLo := 0, bgHi := 0, atLo := 0, atHi := 0, spCount := 0,
                 sp := List.replicate 8 { x := 0, attr := 0, lo := 0, hi := 0 }, spZero := false, fb := [] } } }) ∧
  (∀ a, Memory.read (w := 8) [] a = 0x00 ∧ Memory.read (w := 6) [] a = 0x00) ∧
  (∀ s : State, exec .hostDiscard s = .next { s with result := .none, alive := false })

/-- R330, R331, R333, R37: `insert_cart` of a well-formed image replaces the cartridge and nothing else; the banks hold
the image's bytes in order, and RAM is zero; the variant is the one its id names, a reference variant or a further one
the build supports, with its initial registers. -/
def Obligations.InsertCartBuildsTheCartridge : Prop :=
  ∀ (image : List Byte) (off : Nat), ImageWellFormed image off →
    (∀ s : State, imageId image = 0 ∨ imageId image = 2 ∨ imageId image = 3 →
      ∃ k : Cartridge,
        exec (.hostInsertCart image) s = .next { s with
          result := .success, machine := { s.machine with cart := some k } } ∧
        BuiltFrom image off k ∧
        k.mapper = (if imageId image = 0 then .nrom else if imageId image = 2 then .uxrom 0 else .cnrom 0)) ∧
    (∀ (c : Cfg) (m : Mach) (v : VariantSpec), imageId image ≠ 0 → imageId image ≠ 2 → imageId image ≠ 3 →
      c.supported (imageId image) = true → c.furtherVariant (imageId image) = some v →
      ∃ k : Cartridge,
        insertCart c image m = (.success, { m with cart := some k }) ∧
        BuiltFrom image off k ∧ k.mapper = .further (imageId image) v.init)

/-- R330, R332, R471 to R473: every failing `insert_cart` leaves the Machine exactly as it was; a malformed image fails
as such, and a well-formed one whose id has no supported variant as unsupported. -/
def Obligations.InsertCartFailsWithoutEffect : Prop :=
  (∀ (image : List Byte) (s : State),
    let b := fun i => image.getD i 0
    (image.length < 16 ∨ ¬(b 0 = 0x4E ∧ b 1 = 0x45 ∧ b 2 = 0x53 ∧ b 3 = 0x1A) ∨ b 4 = 0 ∨
      image.length < (if (b 6).getLsbD 2 then 528 else 16) + (b 4).toNat * 16384 + (b 5).toNat * 8192) →
    exec (.hostInsertCart image) s = .next { s with result := .failure .malformedCartridge }) ∧
  (∀ (c : Cfg) (image : List Byte) (m : Mach),
    c.supported (parseHeader (image.take 16)).mapperId = false →
    (insertCart c image m).2 = m ∧
    ((insertCart c image m).1 = .failure .malformedCartridge ∨
      (insertCart c image m).1 = .failure .unsupportedMapper)) ∧
  (∀ (c : Cfg) (image : List Byte) (off : Nat) (m : Mach), ImageWellFormed image off →
    c.supported (imageId image) = false → insertCart c image m = (.failure .unsupportedMapper, m)) ∧
  (∀ (image : List Byte) (off : Nat) (s : State), ImageWellFormed image off →
    Config.cfg.supported (imageId image) = false →
    exec (.hostInsertCart image) s = .next { s with result := .failure .unsupportedMapper }) ∧
  (∀ (c : Cfg) (image : List Byte) (m : Mach), (insertCart c image m).1 ≠ .success → (insertCart c image m).2 = m)

/-- R334, R365: after `remove_cartridge` nothing but the cartridge has changed, and every cartridge access behaves as
with none. -/
def Obligations.RemoveCartridgeLeavesOpenBus : Prop :=
  ∀ s : State, ∃ t : State, exec .hostRemoveCartridge s = .next t ∧
    t = { s with result := .none, machine := { s.machine with cart := none } } ∧
    (∀ (c : Cfg) (a : Addr) (d : Byte), 0x4020 ≤ a.toNat →
      busRead c a t.machine = (t.machine.bus.openBus, t.machine) ∧
      busWrite c a d t.machine =
        { t.machine with bus := { t.machine.bus with openBus := d } }) ∧
    (∀ (c : Cfg) (a : PpuAddr) (d : Byte), a.toNat < 0x2000 →
      ppuRead c a t.machine = (0x00, t.machine) ∧ ppuWrite c a d t.machine = t.machine)

/-- R511: `reset()` clears what the rule lists, the mapper's registers to their initial values among it, then runs the
core's reset sequence over the bus and leaves its cycles to burn. -/
def Obligations.WarmResetClearsThenRunsTheSequence : Prop :=
  ∀ s : State, ∃ (cleared : Mach) (r : (Opaque × Nat) × Mach),
    cleared = { s.machine with
      cpu := { s.machine.cpu with nmiPending := false, irqLine := false, cycles := 0 }
      dma := { request := false, active := false, page := 0, wait := 0, index := 0, phase := .read, latch := 0 }
      pad0 := { s.machine.pad0 with snapshot := 0, index := 0, strobe := false }
      pad1 := { s.machine.pad1 with snapshot := 0, index := 0, strobe := false }
      ppu := { s.machine.ppu with
        ctrl := 0, mask := 0, vblank := false, sprite0Hit := false, overflow := false, oamAddr := 0,
        v := 0, t := 0, x := 0, w := false, readBuffer := 0, scanline := 0, cycle := 0, frame := 0,
        ntByte := 0, atBits := 0, ptLo := 0, ptHi := 0, bgLo := 0, bgHi := 0, atLo := 0, atHi := 0,
        spCount := 0, sp := List.replicate 8 { x := 0, attr := 0, lo := 0, hi := 0 }, spZero := false }
      cart := s.machine.cart.map (fun k => { k with
        mapper := match k.mapper with
          | .nrom => .nrom
          | .uxrom _ => .uxrom 0
          | .cnrom _ => .cnrom 0
          | .further id regs => ((Config.cfg.furtherVariant id).map (fun v => .further id v.init)).getD (.further id regs) })
      audio := Config.cfg.audio.reset s.machine.audio } ∧
    r = runProg Config.cfg (Config.cfg.core.reset s.machine.core) cleared ∧
    exec .hostReset s = .next { s with
      result := .none
      machine := { r.2 with
        core := r.1.1
        cpu := { busy := r.1.2, nmiPending := false, irqLine := false, cycles := 0 } } } ∧
    1 ≤ r.1.2 ∧ r.2.ppu.scanline = 0 ∧ r.2.ppu.cycle = 0 ∧ r.2.ppu.frame = 0 ∧ r.2.dma.active = false ∧
    r.2.ppu.fb = s.machine.ppu.fb ∧ r.2.pad0.live = s.machine.pad0.live ∧ r.2.pad1.live = s.machine.pad1.live

/-- R444, R445, with the model's key codes (log 15): a code below 16 sets or clears one button of the pad mask, another
code does nothing, and only `live` ever changes. R446, R447: the two queries answer and change nothing (the spec's D40 and
D41; logs 9, 10, 19). -/
def Obligations.KeysChangeOneButtonAndQueriesNothing : Prop :=
  (∀ (code : Byte) (s : State),
    (∃ l0 l1 : Byte,
      exec (.hostKeyDown code) s = .next { s with
        result := .none
        machine := { s.machine with
          pad0 := { s.machine.pad0 with live := l0 }, pad1 := { s.machine.pad1 with live := l1 } } } ∧
      ∀ j, j < 16 → (l1 ++ l0).getLsbD j =
        (decide (j = code.toNat) || (s.machine.pad1.live ++ s.machine.pad0.live).getLsbD j)) ∧
    (∃ l0 l1 : Byte,
      exec (.hostKeyUp code) s = .next { s with
        result := .none
        machine := { s.machine with
          pad0 := { s.machine.pad0 with live := l0 }, pad1 := { s.machine.pad1 with live := l1 } } } ∧
      ∀ j, j < 16 → (l1 ++ l0).getLsbD j =
        (!decide (j = code.toNat) && (s.machine.pad1.live ++ s.machine.pad0.live).getLsbD j))) ∧
  (∀ s : State,
    (∃ mask : BitVec 16, mask.toNat = s.machine.pad1.live.toNat * 256 + s.machine.pad0.live.toNat ∧
      exec .hostPadMask s = .next { s with result := .padMask mask }) ∧
    (∃ d : Display, d.width = 256 ∧ d.height = 240 ∧ d.pixels = s.machine.ppu.fb ∧ d.palette.length = 64 ∧
      (∀ i : Color, d.palette[i.toNat]? = some (Config.cfg.paletteRgb i)) ∧
      exec .hostDisplayInfo s = .next { s with result := .display d }))

/-- R421, R422, R423: a save stores the tag and the Machine in its slot, keeps every other slot, and changes nothing in
the Machine; a load with the right tag replaces the Machine by the slot's image, and with any other tag fails without
effect; a load of an empty slot is refused (log 11). -/
def Obligations.SnapshotCommands : Prop :=
  (∀ (slot : Byte) (s : State), ∃ saved : List (Nat × Snapshot),
    exec (.hostSaveSnapshot slot) s = .next { s with
      result := .version Config.cfg.snapshotVersion, snapshots := saved } ∧
    ∀ n, findSnapshot n saved =
      if n = slot.toNat then some { version := Config.cfg.snapshotVersion, image := s.machine }
      else findSnapshot n s.snapshots) ∧
  (∀ (slot : Byte) (s : State) (x : Snapshot), findSnapshot slot.toNat s.snapshots = some x →
    exec (.hostLoadSnapshot Config.cfg.snapshotVersion slot) s = .next { s with
      result := .success, machine := x.image }) ∧
  (∀ (slot : Byte) (s : State), findSnapshot slot.toNat s.snapshots = none →
    exec (.hostLoadSnapshot Config.cfg.snapshotVersion slot) s = .refused .nothingSaved) ∧
  (∀ (version : Nat) (slot : Byte) (s : State), version ≠ Config.cfg.snapshotVersion →
    exec (.hostLoadSnapshot version slot) s = .next { s with result := .failure .snapshotVersionMismatch })

/-- R425: after a save, any operations that save to no other storage of that slot, and a load with the tag the save
returned, the Machine is the one at the save. -/
def Obligations.SnapshotRoundTripRestoresTheMachine : Prop :=
  ∀ (slot : Byte) (s s1 s2 : State) (is : List Instr),
    exec (.hostSaveSnapshot slot) s = .next s1 → Instr.hostSaveSnapshot slot ∉ is →
    (is.foldl (fun (o : Option State) i => o.bind (fun x =>
      match exec i x with | .next y => some y | .fault _ => none | .refused _ => none)) (some s1)) = some s2 →
    ∃ s3, exec (.hostLoadSnapshot Config.cfg.snapshotVersion slot) s2 = .next s3 ∧ s3.machine = s.machine ∧
      s3.result = .success
end

