-- ==== Sys2Proof/Laws/Decode.lean ====
section
/-! SUPPORT. Decode.lean: the selector masks of R136 and R137 as ranges, the parts of an address, and the digits of a
number in a frame. -/

namespace Sys2Proof

/-! ## Masks as arithmetic -/

theorem and_highMask (x k n : Nat) : x &&& ((2 ^ n - 1) <<< k) = x / 2 ^ k % 2 ^ n * 2 ^ k := by
  apply Nat.eq_of_testBit_eq
  intro i
  rw [Nat.testBit_and, Nat.testBit_shiftLeft, Nat.testBit_two_pow_sub_one, ← Nat.shiftLeft_eq,
    Nat.testBit_shiftLeft, Nat.testBit_mod_two_pow, Nat.testBit_div_two_pow]
  by_cases h : k ≤ i
  · have e : i - k + k = i := by omega
    simp [h, e, Bool.and_comm]
  · simp [h]

theorem and_splitMask (x k n j : Nat) (hj : j ≤ k) :
    x &&& (((2 ^ n - 1) <<< k) ||| (2 ^ j - 1)) = x / 2 ^ k % 2 ^ n * 2 ^ k + x % 2 ^ j := by
  rw [Nat.and_or_distrib_left, and_highMask, Nat.and_two_pow_sub_one_eq_mod, ← Nat.shiftLeft_eq,
    Nat.shiftLeft_add_eq_or_of_lt]
  exact Nat.lt_of_lt_of_le (Nat.mod_lt _ (by positivity)) (Nat.pow_le_pow_right (by omega) hj)

theorem addr_ram_iff (a : Addr) : a &&& 0xE000 = 0x0000 ↔ a.toNat < 0x2000 := by
  have h := and_highMask a.toNat 13 3
  have := a.isLt
  rw [BitVec.toNat_eq, BitVec.toNat_and]
  change a.toNat &&& 57344 = 0 ↔ _
  simp only [Nat.reducePow, Nat.reduceSub, Nat.reduceShiftLeft] at h
  rw [h]
  omega

theorem addr_port0_iff (a : Addr) : a &&& 0xE007 = 0x2000 ↔ (0x2000 ≤ a.toNat ∧ a.toNat < 0x4000 ∧ a.toNat % 8 = 0) := by
  have h := and_splitMask a.toNat 13 3 3 (by omega)
  have := a.isLt
  rw [BitVec.toNat_eq, BitVec.toNat_and]
  change a.toNat &&& 57351 = 8192 ↔ _
  simp only [Nat.reducePow, Nat.reduceSub, Nat.reduceShiftLeft, Nat.reduceOr] at h
  rw [h]
  omega

theorem addr_port1_iff (a : Addr) : a &&& 0xE007 = 0x2001 ↔ (0x2000 ≤ a.toNat ∧ a.toNat < 0x4000 ∧ a.toNat % 8 = 1) := by
  have h := and_splitMask a.toNat 13 3 3 (by omega)
  have := a.isLt
  rw [BitVec.toNat_eq, BitVec.toNat_and]
  change a.toNat &&& 57351 = 8193 ↔ _
  simp only [Nat.reducePow, Nat.reduceSub, Nat.reduceShiftLeft, Nat.reduceOr] at h
  rw [h]
  omega

theorem addr_port2_iff (a : Addr) : a &&& 0xE007 = 0x2002 ↔ (0x2000 ≤ a.toNat ∧ a.toNat < 0x4000 ∧ a.toNat % 8 = 2) := by
  have h := and_splitMask a.toNat 13 3 3 (by omega)
  have := a.isLt
  rw [BitVec.toNat_eq, BitVec.toNat_and]
  change a.toNat &&& 57351 = 8194 ↔ _
  simp only [Nat.reducePow, Nat.reduceSub, Nat.reduceShiftLeft, Nat.reduceOr] at h
  rw [h]
  omega

theorem addr_port3_iff (a : Addr) : a &&& 0xE007 = 0x2003 ↔ (0x2000 ≤ a.toNat ∧ a.toNat < 0x4000 ∧ a.toNat % 8 = 3) := by
  have h := and_splitMask a.toNat 13 3 3 (by omega)
  have := a.isLt
  rw [BitVec.toNat_eq, BitVec.toNat_and]
  change a.toNat &&& 57351 = 8195 ↔ _
  simp only [Nat.reducePow, Nat.reduceSub, Nat.reduceShiftLeft, Nat.reduceOr] at h
  rw [h]
  omega

theorem addr_port4_iff (a : Addr) : a &&& 0xE007 = 0x2004 ↔ (0x2000 ≤ a.toNat ∧ a.toNat < 0x4000 ∧ a.toNat % 8 = 4) := by
  have h := and_splitMask a.toNat 13 3 3 (by omega)
  have := a.isLt
  rw [BitVec.toNat_eq, BitVec.toNat_and]
  change a.toNat &&& 57351 = 8196 ↔ _
  simp only [Nat.reducePow, Nat.reduceSub, Nat.reduceShiftLeft, Nat.reduceOr] at h
  rw [h]
  omega

theorem addr_port5_iff (a : Addr) : a &&& 0xE007 = 0x2005 ↔ (0x2000 ≤ a.toNat ∧ a.toNat < 0x4000 ∧ a.toNat % 8 = 5) := by
  have h := and_splitMask a.toNat 13 3 3 (by omega)
  have := a.isLt
  rw [BitVec.toNat_eq, BitVec.toNat_and]
  change a.toNat &&& 57351 = 8197 ↔ _
  simp only [Nat.reducePow, Nat.reduceSub, Nat.reduceShiftLeft, Nat.reduceOr] at h
  rw [h]
  omega

theorem addr_port6_iff (a : Addr) : a &&& 0xE007 = 0x2006 ↔ (0x2000 ≤ a.toNat ∧ a.toNat < 0x4000 ∧ a.toNat % 8 = 6) := by
  have h := and_splitMask a.toNat 13 3 3 (by omega)
  have := a.isLt
  rw [BitVec.toNat_eq, BitVec.toNat_and]
  change a.toNat &&& 57351 = 8198 ↔ _
  simp only [Nat.reducePow, Nat.reduceSub, Nat.reduceShiftLeft, Nat.reduceOr] at h
  rw [h]
  omega

theorem addr_port7_iff (a : Addr) : a &&& 0xE007 = 0x2007 ↔ (0x2000 ≤ a.toNat ∧ a.toNat < 0x4000 ∧ a.toNat % 8 = 7) := by
  have h := and_splitMask a.toNat 13 3 3 (by omega)
  have := a.isLt
  rw [BitVec.toNat_eq, BitVec.toNat_and]
  change a.toNat &&& 57351 = 8199 ↔ _
  simp only [Nat.reducePow, Nat.reduceSub, Nat.reduceShiftLeft, Nat.reduceOr] at h
  rw [h]
  omega

theorem addr_4000_iff (a : Addr) : a &&& 0xFFF0 = 0x4000 ↔ (0x4000 ≤ a.toNat ∧ a.toNat < 0x4010) := by
  have h := and_highMask a.toNat 4 12
  have := a.isLt
  rw [BitVec.toNat_eq, BitVec.toNat_and]
  change a.toNat &&& 65520 = 16384 ↔ _
  simp only [Nat.reducePow, Nat.reduceSub, Nat.reduceShiftLeft] at h
  rw [h]
  omega

theorem addr_4010_iff (a : Addr) : a &&& 0xFFFC = 0x4010 ↔ (0x4010 ≤ a.toNat ∧ a.toNat < 0x4014) := by
  have h := and_highMask a.toNat 2 14
  have := a.isLt
  rw [BitVec.toNat_eq, BitVec.toNat_and]
  change a.toNat &&& 65532 = 16400 ↔ _
  simp only [Nat.reducePow, Nat.reduceSub, Nat.reduceShiftLeft] at h
  rw [h]
  omega

theorem addr_4018_iff (a : Addr) : a &&& 0xFFF8 = 0x4018 ↔ (0x4018 ≤ a.toNat ∧ a.toNat < 0x4020) := by
  have h := and_highMask a.toNat 3 13
  have := a.isLt
  rw [BitVec.toNat_eq, BitVec.toNat_and]
  change a.toNat &&& 65528 = 16408 ↔ _
  simp only [Nat.reducePow, Nat.reduceSub, Nat.reduceShiftLeft] at h
  rw [h]
  omega

theorem ppu_pattern_iff (a : PpuAddr) : a &&& 0x2000 = 0 ↔ a.toNat < 0x2000 := by
  have h := and_highMask a.toNat 13 1
  have := a.isLt
  rw [BitVec.toNat_eq, BitVec.toNat_and]
  change a.toNat &&& 8192 = 0 ↔ _
  simp only [Nat.reducePow, Nat.reduceSub, Nat.reduceShiftLeft] at h
  rw [h]
  omega

theorem ppu_palette_iff (a : PpuAddr) : a &&& 0x3F00 = 0x3F00 ↔ 0x3F00 ≤ a.toNat := by
  have h := and_highMask a.toNat 8 6
  have := a.isLt
  rw [BitVec.toNat_eq, BitVec.toNat_and]
  change a.toNat &&& 16128 = 16128 ↔ _
  simp only [Nat.reducePow, Nat.reduceSub, Nat.reduceShiftLeft] at h
  rw [h]
  omega

theorem addr_eq_4014_iff (a : Addr) : a = 0x4014 ↔ a.toNat = 0x4014 := by
  rw [BitVec.toNat_eq]; exact Iff.rfl

theorem addr_eq_4015_iff (a : Addr) : a = 0x4015 ↔ a.toNat = 0x4015 := by
  rw [BitVec.toNat_eq]; exact Iff.rfl

theorem addr_eq_4016_iff (a : Addr) : a = 0x4016 ↔ a.toNat = 0x4016 := by
  rw [BitVec.toNat_eq]; exact Iff.rfl

theorem addr_eq_4017_iff (a : Addr) : a = 0x4017 ↔ a.toNat = 0x4017 := by
  rw [BitVec.toNat_eq]; exact Iff.rfl

/-! ## The address maps -/

/-- The read map of R136 by ranges of the address (R90). -/
theorem cpuReadOp_ranges (a : Addr) : cpuReadOp a =
    if a.toNat < 0x2000 then .ram
    else if a.toNat < 0x4000 then
      (if a.toNat % 8 = 2 then .status else if a.toNat % 8 = 4 then .oamData
       else if a.toNat % 8 = 7 then .ppuData else .regOpen)
    else if a.toNat = 0x4014 then .dma
    else if a.toNat = 0x4016 then .joy1
    else if a.toNat = 0x4017 then .joy2
    else if a.toNat < 0x4016 then .apu
    else if a.toNat < 0x4020 then .unmapped
    else .cart := by
  simp only [cpuReadOp, addr_ram_iff, addr_port0_iff, addr_port1_iff, addr_port2_iff, addr_port3_iff, addr_port4_iff, addr_port5_iff, addr_port6_iff, addr_port7_iff,
    addr_4000_iff, addr_4010_iff, addr_4018_iff, addr_eq_4014_iff, addr_eq_4015_iff, addr_eq_4016_iff,
    addr_eq_4017_iff]
  have hm : a.toNat % 8 = 0 ∨ a.toNat % 8 = 1 ∨ a.toNat % 8 = 2 ∨ a.toNat % 8 = 3 ∨ a.toNat % 8 = 4 ∨
      a.toNat % 8 = 5 ∨ a.toNat % 8 = 6 ∨ a.toNat % 8 = 7 := by omega
  have hr : a.toNat < 0x2000 ∨ (0x2000 ≤ a.toNat ∧ a.toNat < 0x4000) ∨ (0x4000 ≤ a.toNat ∧ a.toNat < 0x4010) ∨
      (0x4010 ≤ a.toNat ∧ a.toNat < 0x4014) ∨ a.toNat = 0x4014 ∨ a.toNat = 0x4015 ∨ a.toNat = 0x4016 ∨
      a.toNat = 0x4017 ∨ (0x4018 ≤ a.toNat ∧ a.toNat < 0x4020) ∨ 0x4020 ≤ a.toNat := by omega
  rcases hr with h | h | h
  · simp (disch := omega) only [if_pos]
  · rcases hm with hm | hm | hm | hm | hm | hm | hm | hm <;> simp (disch := omega) only [if_pos, if_neg]
  · rcases h with h | h | h | h | h | h | h | h <;> simp (disch := omega) only [if_pos, if_neg]

/-- The write map of R136 by ranges of the address (R90). -/
theorem cpuWriteOp_ranges (a : Addr) : cpuWriteOp a =
    if a.toNat < 0x2000 then .ram
    else if a.toNat < 0x4000 then
      (if a.toNat % 8 = 0 then .ctrl else if a.toNat % 8 = 1 then .mask
       else if a.toNat % 8 = 2 then .status else if a.toNat % 8 = 3 then .oamAddr
       else if a.toNat % 8 = 4 then .oamData else if a.toNat % 8 = 5 then .scroll
       else if a.toNat % 8 = 6 then .addr else .ppuData)
    else if a.toNat = 0x4014 then .dma
    else if a.toNat = 0x4016 then .strobe
    else if a.toNat = 0x4017 then .apu4017
    else if a.toNat < 0x4016 then .apu
    else if a.toNat < 0x4020 then .unmapped
    else .cart := by
  simp only [cpuWriteOp, addr_ram_iff, addr_port0_iff, addr_port1_iff, addr_port2_iff, addr_port3_iff, addr_port4_iff, addr_port5_iff, addr_port6_iff, addr_port7_iff,
    addr_4000_iff, addr_4010_iff, addr_4018_iff, addr_eq_4014_iff, addr_eq_4015_iff, addr_eq_4016_iff,
    addr_eq_4017_iff]
  have hm : a.toNat % 8 = 0 ∨ a.toNat % 8 = 1 ∨ a.toNat % 8 = 2 ∨ a.toNat % 8 = 3 ∨ a.toNat % 8 = 4 ∨
      a.toNat % 8 = 5 ∨ a.toNat % 8 = 6 ∨ a.toNat % 8 = 7 := by omega
  have hr : a.toNat < 0x2000 ∨ (0x2000 ≤ a.toNat ∧ a.toNat < 0x4000) ∨ (0x4000 ≤ a.toNat ∧ a.toNat < 0x4010) ∨
      (0x4010 ≤ a.toNat ∧ a.toNat < 0x4014) ∨ a.toNat = 0x4014 ∨ a.toNat = 0x4015 ∨ a.toNat = 0x4016 ∨
      a.toNat = 0x4017 ∨ (0x4018 ≤ a.toNat ∧ a.toNat < 0x4020) ∨ 0x4020 ≤ a.toNat := by omega
  rcases hr with h | h | h
  · simp (disch := omega) only [if_pos]
  · rcases hm with hm | hm | hm | hm | hm | hm | hm | hm <;> simp (disch := omega) only [if_pos, if_neg]
  · rcases h with h | h | h | h | h | h | h | h <;> simp (disch := omega) only [if_pos, if_neg]

/-- The PPU map of R137 by ranges of the address (R91). -/
theorem ppuRegion_ranges (a : PpuAddr) : ppuRegion a =
    if a.toNat < 0x2000 then .pattern else if a.toNat < 0x3F00 then .nametable else .palette := by
  simp only [ppuRegion, ppu_pattern_iff, ppu_palette_iff]
  split_ifs <;> first | rfl | omega

/-! ## The parts of an address -/

@[simp] theorem addrHi_append_addrLo (a : Addr) : addrHi a ++ addrLo a = a := by
  apply BitVec.eq_of_getLsbD_eq
  intro i hi
  rw [BitVec.getLsbD_append]
  simp only [addrHi, addrLo, BitVec.getLsbD_extractLsb']
  by_cases h : i < 8
  · simp [h]
  · simp [h, show i - 8 < 8 by omega, show 8 + (i - 8) = i by omega]

@[simp] theorem ppuHi_append_ppuLo (a : PpuAddr) : (ppuHi a).extractLsb' 0 6 ++ ppuLo a = a := by
  apply BitVec.eq_of_getLsbD_eq
  intro i hi
  rw [BitVec.getLsbD_append]
  simp only [ppuHi, ppuLo, BitVec.getLsbD_extractLsb', BitVec.getLsbD_setWidth]
  by_cases h : i < 8
  · simp [h]
  · simp [h, show i - 8 < 8 by omega, show i - 8 < 6 by omega, show 8 + (i - 8) = i by omega]

theorem ppuHi_toNat (a : PpuAddr) : (ppuHi a).toNat = a.toNat / 256 := by
  have := a.isLt
  simp [ppuHi, Nat.shiftRight_eq_div_pow]
  omega

@[simp] theorem ppuHi_bit7 (a : PpuAddr) : (ppuHi a)[7] = false := by
  simp [ppuHi, BitVec.getElem_setWidth]

@[simp] theorem ppuHi_bit6 (a : PpuAddr) : (ppuHi a)[6] = false := by
  simp [ppuHi, BitVec.getElem_setWidth]

@[simp] theorem or_dir_low6 (x : Byte) : (x ||| 0x40#8).extractLsb' 0 6 = x.extractLsb' 0 6 := by
  revert x; decide

/-! ## The frames of bus operations -/

theorem inPort_iff {i : Nat} {a : Addr} :
    inPort i a = true ↔ 0x2000 ≤ a.toNat ∧ a.toNat < 0x4000 ∧ a.toNat % 8 = i := by
  simp [inPort, and_assoc]

theorem decode_encCpuRd (a : Addr) : decode (encCpuRd a) = .ok (cpuReadInstr a) := by
  simp [decode, encCpuRd, decodeCpuBus, show fmtCpuBus.toNat = 0 from rfl]

theorem decode_encCpuWr (a : Addr) (d : Byte) : decode (encCpuWr a d) = .ok (cpuWriteInstr a d) := by
  simp [decode, encCpuWr, decodeCpuBus, show fmtCpuBus.toNat = 0 from rfl]

theorem decode_encPpuRd (a : PpuAddr) : decode (encPpuRd a) = .ok (ppuReadInstr a) := by
  simp [decode, encPpuRd, decodePpuBus, show fmtPpuBus.toNat = 1 from rfl]

theorem decode_encPpuWr (a : PpuAddr) (d : Byte) : decode (encPpuWr a d) = .ok (ppuWriteInstr a d) := by
  simp [decode, encPpuWr, decodePpuBus, show fmtPpuBus.toNat = 1 from rfl]

/-! ## The digits of a number -/

theorem natOfBytes_bytesOfNat (fuel n : Nat) (h : n ≤ fuel) : natOfBytes (bytesOfNat fuel n) = n := by
  induction fuel generalizing n with
  | zero => simp [bytesOfNat, natOfBytes]; omega
  | succ k ih =>
    simp only [bytesOfNat]
    split
    · simp [natOfBytes]; omega
    · simp [natOfBytes, ih (n / 256) (by omega)]; omega

end Sys2Proof
end

