-- ==== Sys2Proof/Laws/State.lean ====
section
/-! SUPPORT. State.lean: one lemma per field per update, so that no proof unfolds a record update; the equations of a core
step and of a core program; and everything a step can do. -/

namespace Sys2Proof.Machine

section setCore

variable (m : Mach) (v : Opaque)

@[simp] theorem Mach.setCore_core : (m.setCore v).core = v := rfl
@[simp] theorem Mach.setCore_cpu : (m.setCore v).cpu = m.cpu := rfl
@[simp] theorem Mach.setCore_dma : (m.setCore v).dma = m.dma := rfl
@[simp] theorem Mach.setCore_bus : (m.setCore v).bus = m.bus := rfl
@[simp] theorem Mach.setCore_ppu : (m.setCore v).ppu = m.ppu := rfl
@[simp] theorem Mach.setCore_cart : (m.setCore v).cart = m.cart := rfl
@[simp] theorem Mach.setCore_pad0 : (m.setCore v).pad0 = m.pad0 := rfl
@[simp] theorem Mach.setCore_pad1 : (m.setCore v).pad1 = m.pad1 := rfl
@[simp] theorem Mach.setCore_audio : (m.setCore v).audio = m.audio := rfl
@[simp] theorem Mach.setCore_same : m.setCore m.core = m := rfl
@[simp] theorem Mach.setCore_twice (x : Opaque) : (m.setCore x).setCore v = m.setCore v := rfl

end setCore

section setCpu

variable (m : Mach) (v : Cpu)

@[simp] theorem Mach.setCpu_core : (m.setCpu v).core = m.core := rfl
@[simp] theorem Mach.setCpu_cpu : (m.setCpu v).cpu = v := rfl
@[simp] theorem Mach.setCpu_dma : (m.setCpu v).dma = m.dma := rfl
@[simp] theorem Mach.setCpu_bus : (m.setCpu v).bus = m.bus := rfl
@[simp] theorem Mach.setCpu_ppu : (m.setCpu v).ppu = m.ppu := rfl
@[simp] theorem Mach.setCpu_cart : (m.setCpu v).cart = m.cart := rfl
@[simp] theorem Mach.setCpu_pad0 : (m.setCpu v).pad0 = m.pad0 := rfl
@[simp] theorem Mach.setCpu_pad1 : (m.setCpu v).pad1 = m.pad1 := rfl
@[simp] theorem Mach.setCpu_audio : (m.setCpu v).audio = m.audio := rfl
@[simp] theorem Mach.setCpu_same : m.setCpu m.cpu = m := rfl
@[simp] theorem Mach.setCpu_twice (x : Cpu) : (m.setCpu x).setCpu v = m.setCpu v := rfl

end setCpu

section setDma

variable (m : Mach) (v : Dma)

@[simp] theorem Mach.setDma_core : (m.setDma v).core = m.core := rfl
@[simp] theorem Mach.setDma_cpu : (m.setDma v).cpu = m.cpu := rfl
@[simp] theorem Mach.setDma_dma : (m.setDma v).dma = v := rfl
@[simp] theorem Mach.setDma_bus : (m.setDma v).bus = m.bus := rfl
@[simp] theorem Mach.setDma_ppu : (m.setDma v).ppu = m.ppu := rfl
@[simp] theorem Mach.setDma_cart : (m.setDma v).cart = m.cart := rfl
@[simp] theorem Mach.setDma_pad0 : (m.setDma v).pad0 = m.pad0 := rfl
@[simp] theorem Mach.setDma_pad1 : (m.setDma v).pad1 = m.pad1 := rfl
@[simp] theorem Mach.setDma_audio : (m.setDma v).audio = m.audio := rfl
@[simp] theorem Mach.setDma_same : m.setDma m.dma = m := rfl
@[simp] theorem Mach.setDma_twice (x : Dma) : (m.setDma x).setDma v = m.setDma v := rfl

end setDma

section setBus

variable (m : Mach) (v : Bus)

@[simp] theorem Mach.setBus_core : (m.setBus v).core = m.core := rfl
@[simp] theorem Mach.setBus_cpu : (m.setBus v).cpu = m.cpu := rfl
@[simp] theorem Mach.setBus_dma : (m.setBus v).dma = m.dma := rfl
@[simp] theorem Mach.setBus_bus : (m.setBus v).bus = v := rfl
@[simp] theorem Mach.setBus_ppu : (m.setBus v).ppu = m.ppu := rfl
@[simp] theorem Mach.setBus_cart : (m.setBus v).cart = m.cart := rfl
@[simp] theorem Mach.setBus_pad0 : (m.setBus v).pad0 = m.pad0 := rfl
@[simp] theorem Mach.setBus_pad1 : (m.setBus v).pad1 = m.pad1 := rfl
@[simp] theorem Mach.setBus_audio : (m.setBus v).audio = m.audio := rfl
@[simp] theorem Mach.setBus_same : m.setBus m.bus = m := rfl
@[simp] theorem Mach.setBus_twice (x : Bus) : (m.setBus x).setBus v = m.setBus v := rfl

end setBus

section setPpu

variable (m : Mach) (v : Ppu)

@[simp] theorem Mach.setPpu_core : (m.setPpu v).core = m.core := rfl
@[simp] theorem Mach.setPpu_cpu : (m.setPpu v).cpu = m.cpu := rfl
@[simp] theorem Mach.setPpu_dma : (m.setPpu v).dma = m.dma := rfl
@[simp] theorem Mach.setPpu_bus : (m.setPpu v).bus = m.bus := rfl
@[simp] theorem Mach.setPpu_ppu : (m.setPpu v).ppu = v := rfl
@[simp] theorem Mach.setPpu_cart : (m.setPpu v).cart = m.cart := rfl
@[simp] theorem Mach.setPpu_pad0 : (m.setPpu v).pad0 = m.pad0 := rfl
@[simp] theorem Mach.setPpu_pad1 : (m.setPpu v).pad1 = m.pad1 := rfl
@[simp] theorem Mach.setPpu_audio : (m.setPpu v).audio = m.audio := rfl
@[simp] theorem Mach.setPpu_same : m.setPpu m.ppu = m := rfl
@[simp] theorem Mach.setPpu_twice (x : Ppu) : (m.setPpu x).setPpu v = m.setPpu v := rfl

end setPpu

section setCart

variable (m : Mach) (v : Option Cartridge)

@[simp] theorem Mach.setCart_core : (m.setCart v).core = m.core := rfl
@[simp] theorem Mach.setCart_cpu : (m.setCart v).cpu = m.cpu := rfl
@[simp] theorem Mach.setCart_dma : (m.setCart v).dma = m.dma := rfl
@[simp] theorem Mach.setCart_bus : (m.setCart v).bus = m.bus := rfl
@[simp] theorem Mach.setCart_ppu : (m.setCart v).ppu = m.ppu := rfl
@[simp] theorem Mach.setCart_cart : (m.setCart v).cart = v := rfl
@[simp] theorem Mach.setCart_pad0 : (m.setCart v).pad0 = m.pad0 := rfl
@[simp] theorem Mach.setCart_pad1 : (m.setCart v).pad1 = m.pad1 := rfl
@[simp] theorem Mach.setCart_audio : (m.setCart v).audio = m.audio := rfl
@[simp] theorem Mach.setCart_same : m.setCart m.cart = m := rfl
@[simp] theorem Mach.setCart_twice (x : Option Cartridge) : (m.setCart x).setCart v = m.setCart v := rfl

end setCart

section setPad0

variable (m : Mach) (v : Pad)

@[simp] theorem Mach.setPad0_core : (m.setPad0 v).core = m.core := rfl
@[simp] theorem Mach.setPad0_cpu : (m.setPad0 v).cpu = m.cpu := rfl
@[simp] theorem Mach.setPad0_dma : (m.setPad0 v).dma = m.dma := rfl
@[simp] theorem Mach.setPad0_bus : (m.setPad0 v).bus = m.bus := rfl
@[simp] theorem Mach.setPad0_ppu : (m.setPad0 v).ppu = m.ppu := rfl
@[simp] theorem Mach.setPad0_cart : (m.setPad0 v).cart = m.cart := rfl
@[simp] theorem Mach.setPad0_pad0 : (m.setPad0 v).pad0 = v := rfl
@[simp] theorem Mach.setPad0_pad1 : (m.setPad0 v).pad1 = m.pad1 := rfl
@[simp] theorem Mach.setPad0_audio : (m.setPad0 v).audio = m.audio := rfl
@[simp] theorem Mach.setPad0_same : m.setPad0 m.pad0 = m := rfl
@[simp] theorem Mach.setPad0_twice (x : Pad) : (m.setPad0 x).setPad0 v = m.setPad0 v := rfl

end setPad0

section setPad1

variable (m : Mach) (v : Pad)

@[simp] theorem Mach.setPad1_core : (m.setPad1 v).core = m.core := rfl
@[simp] theorem Mach.setPad1_cpu : (m.setPad1 v).cpu = m.cpu := rfl
@[simp] theorem Mach.setPad1_dma : (m.setPad1 v).dma = m.dma := rfl
@[simp] theorem Mach.setPad1_bus : (m.setPad1 v).bus = m.bus := rfl
@[simp] theorem Mach.setPad1_ppu : (m.setPad1 v).ppu = m.ppu := rfl
@[simp] theorem Mach.setPad1_cart : (m.setPad1 v).cart = m.cart := rfl
@[simp] theorem Mach.setPad1_pad0 : (m.setPad1 v).pad0 = m.pad0 := rfl
@[simp] theorem Mach.setPad1_pad1 : (m.setPad1 v).pad1 = v := rfl
@[simp] theorem Mach.setPad1_audio : (m.setPad1 v).audio = m.audio := rfl
@[simp] theorem Mach.setPad1_same : m.setPad1 m.pad1 = m := rfl
@[simp] theorem Mach.setPad1_twice (x : Pad) : (m.setPad1 x).setPad1 v = m.setPad1 v := rfl

end setPad1

section setAudio

variable (m : Mach) (v : Opaque)

@[simp] theorem Mach.setAudio_core : (m.setAudio v).core = m.core := rfl
@[simp] theorem Mach.setAudio_cpu : (m.setAudio v).cpu = m.cpu := rfl
@[simp] theorem Mach.setAudio_dma : (m.setAudio v).dma = m.dma := rfl
@[simp] theorem Mach.setAudio_bus : (m.setAudio v).bus = m.bus := rfl
@[simp] theorem Mach.setAudio_ppu : (m.setAudio v).ppu = m.ppu := rfl
@[simp] theorem Mach.setAudio_cart : (m.setAudio v).cart = m.cart := rfl
@[simp] theorem Mach.setAudio_pad0 : (m.setAudio v).pad0 = m.pad0 := rfl
@[simp] theorem Mach.setAudio_pad1 : (m.setAudio v).pad1 = m.pad1 := rfl
@[simp] theorem Mach.setAudio_audio : (m.setAudio v).audio = v := rfl
@[simp] theorem Mach.setAudio_same : m.setAudio m.audio = m := rfl
@[simp] theorem Mach.setAudio_twice (x : Opaque) : (m.setAudio x).setAudio v = m.setAudio v := rfl

end setAudio

section openBus

variable (m : Mach) (b : Byte)

@[simp] theorem Mach.setOpenBus_core : (m.setOpenBus b).core = m.core := rfl
@[simp] theorem Mach.setOpenBus_cpu : (m.setOpenBus b).cpu = m.cpu := rfl
@[simp] theorem Mach.setOpenBus_dma : (m.setOpenBus b).dma = m.dma := rfl
@[simp] theorem Mach.setOpenBus_ram : (m.setOpenBus b).bus.ram = m.bus.ram := rfl
@[simp] theorem Mach.setOpenBus_openBus : (m.setOpenBus b).bus.openBus = b := rfl
@[simp] theorem Mach.setOpenBus_ppu : (m.setOpenBus b).ppu = m.ppu := rfl
@[simp] theorem Mach.setOpenBus_cart : (m.setOpenBus b).cart = m.cart := rfl
@[simp] theorem Mach.setOpenBus_pad0 : (m.setOpenBus b).pad0 = m.pad0 := rfl
@[simp] theorem Mach.setOpenBus_pad1 : (m.setOpenBus b).pad1 = m.pad1 := rfl
@[simp] theorem Mach.setOpenBus_audio : (m.setOpenBus b).audio = m.audio := rfl
@[simp] theorem Mach.setOpenBus_same : m.setOpenBus m.bus.openBus = m := rfl
@[simp] theorem Mach.setOpenBus_twice (x : Byte) : (m.setOpenBus x).setOpenBus b = m.setOpenBus b := rfl

end openBus

section nmi

variable (m : Mach)

@[simp] theorem assertNmi_core : (assertNmi m).core = m.core := rfl
@[simp] theorem assertNmi_nmiPending : (assertNmi m).cpu.nmiPending = true := rfl
@[simp] theorem assertNmi_busy : (assertNmi m).cpu.busy = m.cpu.busy := rfl
@[simp] theorem assertNmi_irqLine : (assertNmi m).cpu.irqLine = m.cpu.irqLine := rfl
@[simp] theorem assertNmi_cycles : (assertNmi m).cpu.cycles = m.cpu.cycles := rfl
@[simp] theorem assertNmi_dma : (assertNmi m).dma = m.dma := rfl
@[simp] theorem assertNmi_bus : (assertNmi m).bus = m.bus := rfl
@[simp] theorem assertNmi_ppu : (assertNmi m).ppu = m.ppu := rfl
@[simp] theorem assertNmi_cart : (assertNmi m).cart = m.cart := rfl
@[simp] theorem assertNmi_pad0 : (assertNmi m).pad0 = m.pad0 := rfl
@[simp] theorem assertNmi_pad1 : (assertNmi m).pad1 = m.pad1 := rfl
@[simp] theorem assertNmi_audio : (assertNmi m).audio = m.audio := rfl

end nmi

section pad

variable (m : Mach) (p : Port) (v : Pad)

@[simp] theorem Mach.setPad_core : (m.setPad p v).core = m.core := by cases p <;> rfl
@[simp] theorem Mach.setPad_cpu : (m.setPad p v).cpu = m.cpu := by cases p <;> rfl
@[simp] theorem Mach.setPad_dma : (m.setPad p v).dma = m.dma := by cases p <;> rfl
@[simp] theorem Mach.setPad_bus : (m.setPad p v).bus = m.bus := by cases p <;> rfl
@[simp] theorem Mach.setPad_ppu : (m.setPad p v).ppu = m.ppu := by cases p <;> rfl
@[simp] theorem Mach.setPad_cart : (m.setPad p v).cart = m.cart := by cases p <;> rfl
@[simp] theorem Mach.setPad_audio : (m.setPad p v).audio = m.audio := by cases p <;> rfl
@[simp] theorem Mach.setPad_pad : (m.setPad p v).pad p = v := by cases p <;> rfl
@[simp] theorem Mach.pad_one : m.pad .one = m.pad0 := rfl
@[simp] theorem Mach.pad_two : m.pad .two = m.pad1 := rfl
@[simp] theorem Mach.setPad_one : m.setPad .one v = m.setPad0 v := rfl
@[simp] theorem Mach.setPad_two : m.setPad .two v = m.setPad1 v := rfl

end pad

section state

variable (s : State) (r : Result) (m : Mach) (f : List Byte)

@[simp] theorem State.answer_machine : (s.answer r m).machine = m := rfl
@[simp] theorem State.answer_alive : (s.answer r m).alive = s.alive := rfl
@[simp] theorem State.answer_snapshots : (s.answer r m).snapshots = s.snapshots := rfl
@[simp] theorem State.answer_result : (s.answer r m).result = r := rfl
@[simp] theorem State.answer_requests : (s.answer r m).requests = s.requests := rfl
@[simp] theorem State.answer_bench : (s.answer r m).bench = s.bench := rfl
@[simp] theorem State.takeRequest_machine : (s.takeRequest).machine = s.machine := rfl
@[simp] theorem State.takeRequest_alive : (s.takeRequest).alive = s.alive := rfl
@[simp] theorem State.takeRequest_snapshots : (s.takeRequest).snapshots = s.snapshots := rfl
@[simp] theorem State.takeRequest_result : (s.takeRequest).result = s.result := rfl
@[simp] theorem State.takeRequest_requests : (s.takeRequest).requests = s.requests.drop 1 := rfl
@[simp] theorem State.takeRequest_bench : (s.takeRequest).bench = s.bench := rfl
@[simp] theorem State.takeBench_machine : (s.takeBench).machine = s.machine := rfl
@[simp] theorem State.takeBench_alive : (s.takeBench).alive = s.alive := rfl
@[simp] theorem State.takeBench_snapshots : (s.takeBench).snapshots = s.snapshots := rfl
@[simp] theorem State.takeBench_result : (s.takeBench).result = s.result := rfl
@[simp] theorem State.takeBench_requests : (s.takeBench).requests = s.requests := rfl
@[simp] theorem State.takeBench_bench : (s.takeBench).bench = none := rfl
@[simp] theorem State.ignored_machine : (s.ignored).machine = s.machine := rfl
@[simp] theorem State.ignored_alive : (s.ignored).alive = s.alive := rfl
@[simp] theorem State.ignored_snapshots : (s.ignored).snapshots = s.snapshots := rfl
@[simp] theorem State.ignored_result : (s.ignored).result = .none := rfl
@[simp] theorem State.ignored_requests : (s.ignored).requests = s.requests := rfl
@[simp] theorem State.ignored_bench : (s.ignored).bench = s.bench := rfl
@[simp] theorem State.putBench_machine : (s.putBench f).machine = s.machine := rfl
@[simp] theorem State.putBench_alive : (s.putBench f).alive = true := rfl
@[simp] theorem State.putBench_snapshots : (s.putBench f).snapshots = s.snapshots := rfl
@[simp] theorem State.putBench_result : (s.putBench f).result = s.result := rfl
@[simp] theorem State.putBench_requests : (s.putBench f).requests = s.requests := rfl
@[simp] theorem State.putBench_bench : (s.putBench f).bench = some f := rfl

end state

section config

@[simp] theorem cfg_fbW : Config.cfg.fbW = 256 := rfl
@[simp] theorem cfg_fbH : Config.cfg.fbH = 240 := rfl
@[simp] theorem cfg_vramSize : Config.cfg.vramSize = 4096 := rfl
@[simp] theorem cfg_paletteSize : Config.cfg.paletteSize = 32 := rfl
@[simp] theorem cfg_prgRamSize : Config.cfg.prgRamSize = 8192 := rfl

end config

section coreStep

variable (k : CoreSpec) (core : Opaque) (irq : Bool)

@[simp] theorem coreStep_nmi : coreStep k core { nmi := true, irq := irq } = k.nmiEntry core { nmi := true, irq := irq } := rfl
@[simp] theorem coreStep_quiet :
    coreStep k core { nmi := false, irq := false } = k.instruction core { nmi := false, irq := false } := rfl
theorem coreStep_irq (h : k.irqPermitted core = true) :
    coreStep k core { nmi := false, irq := true } = k.irqEntry core { nmi := false, irq := true } := by simp [coreStep, h]
theorem coreStep_masked (h : k.irqPermitted core = false) :
    coreStep k core { nmi := false, irq := true } = k.instruction core { nmi := false, irq := true } := by
  simp [coreStep, h]

end coreStep

section runProg

variable (c : Cfg) (m : Mach)

@[simp] theorem runProg_done (core : Opaque) (extra : Nat) : runProg c (.done core extra) m = ((core, extra + 1), m) := rfl
theorem runProg_read (a : Addr) (k : Byte → Prog) :
    runProg c (.read a k) m = runProg c (k (busRead c a m).1) (busRead c a m).2 := rfl
theorem runProg_write (a : Addr) (d : Byte) (k : Prog) : runProg c (.write a d k) m = runProg c k (busWrite c a d m) := rfl

end runProg

/-- Everything a step that answers a next state can have done: nothing, with nothing asked for; ignored a frame; run the
bench's operation; or run the host's oldest command. -/
theorem step_cases {s t : State} (h : step s = .next t) :
    (s.bench = none ∧ s.requests = [] ∧ t = s) ∨
    (∃ f e, s.bench = some f ∧ decode f = .error e ∧ t = s.takeBench.ignored) ∨
    (∃ f rest e, s.bench = none ∧ s.requests = f :: rest ∧ decodeCommand f = .error e ∧ t = s.takeRequest.ignored) ∨
    (∃ f i, s.bench = some f ∧ decode f = .ok i ∧ admitted i s = true ∧ selected i s.machine = true ∧
      exec i s.takeBench = .next t) ∨
    (∃ f rest i, s.bench = none ∧ s.requests = f :: rest ∧ decodeCommand f = .ok i ∧ admitted i s = true ∧
      exec i s.takeRequest = .next t) := by
  unfold step at h
  split at h
  · next f hb =>
    unfold runBench at h
    split at h
    · next e hd => cases h; exact .inr (.inl ⟨f, e, hb, hd, rfl⟩)
    · next i hd =>
      split at h
      · next ha =>
        split at h
        · next hs => exact .inr (.inr (.inr (.inl ⟨f, i, hb, hd, ha, hs, h⟩)))
        · cases h
      · cases h
  · next hb =>
    split at h
    · next hr => cases h; exact .inl ⟨hb, hr, rfl⟩
    · next f rest hr =>
      unfold runRequest at h
      split at h
      · next e hd => cases h; exact .inr (.inr (.inl ⟨f, rest, e, hb, hr, hd, rfl⟩))
      · next i hd =>
        split at h
        · next ha => exact .inr (.inr (.inr (.inr ⟨f, rest, i, hb, hr, hd, ha, h⟩)))
        · cases h

end Sys2Proof.Machine
end

