-- ==== Sys2Proof/Laws/Memory.lean ====
section
/-! SUPPORT. Memory.lean: the laws of a memory: read after write, and that every memory operation keeps the canonical
form and the bound. -/

namespace Sys2Proof.Machine

variable {w : Nat}

@[simp] theorem Memory.read_nil (a : Nat) : Memory.read ([] : Memory w) a = 0 := rfl

theorem Memory.mem_erase {m : Memory w} {a : Nat} {c : Nat × BitVec w} :
    c ∈ Memory.erase m a ↔ c ∈ m ∧ c.1 ≠ a := by
  simp [Memory.erase]

theorem Memory.mem_insert {a : Nat} {b : BitVec w} {m : Memory w} {c : Nat × BitVec w} :
    c ∈ Memory.insert a b m ↔ c = (a, b) ∨ c ∈ m := by
  induction m with
  | nil => simp [Memory.insert]
  | cons e rest ih =>
    simp only [Memory.insert]
    split
    · simp
    · simp only [List.mem_cons, ih]; tauto

theorem Memory.read_erase_self (m : Memory w) (a : Nat) : Memory.read (Memory.erase m a) a = 0 := by
  induction m with
  | nil => rfl
  | cons e rest ih =>
    obtain ⟨k, x⟩ := e
    by_cases h : k = a
    · simp [Memory.erase, h] at ih ⊢; exact ih
    · simp [Memory.erase, h, Memory.read, Ne.symm h] at ih ⊢; exact ih

theorem Memory.read_erase_of_ne (m : Memory w) {a b : Nat} (h : b ≠ a) :
    Memory.read (Memory.erase m a) b = Memory.read m b := by
  induction m with
  | nil => rfl
  | cons e rest ih =>
    obtain ⟨k, x⟩ := e
    by_cases hk : k = a
    · have : b ≠ k := by omega
      simp [Memory.erase, hk, Memory.read, h] at ih ⊢; exact ih
    · simp [Memory.erase, hk, Memory.read] at ih ⊢; rw [ih]

theorem Memory.read_insert_self (a : Nat) (b : BitVec w) (m : Memory w) (h : ∀ c ∈ m, c.1 ≠ a) :
    Memory.read (Memory.insert a b m) a = b := by
  induction m with
  | nil => simp [Memory.insert, Memory.read]
  | cons e rest ih =>
    obtain ⟨k, x⟩ := e
    have hk : k ≠ a := h (k, x) (by simp)
    simp only [Memory.insert]
    split
    · simp [Memory.read]
    · simp [Memory.read, Ne.symm hk, ih (fun c hc => h c (by simp [hc]))]

theorem Memory.read_insert_of_ne {a x : Nat} (b : BitVec w) (m : Memory w) (h : x ≠ a) :
    Memory.read (Memory.insert a b m) x = Memory.read m x := by
  induction m with
  | nil => simp [Memory.insert, Memory.read, h]
  | cons e rest ih =>
    simp only [Memory.insert]
    split
    · simp [Memory.read, h]
    · simp [Memory.read, ih]

/-- Read after write, with no condition on the memory. -/
theorem Memory.read_write (m : Memory w) (a : Nat) (b : BitVec w) (x : Nat) :
    Memory.read (Memory.write m a b) x = if x = a then b else Memory.read m x := by
  unfold Memory.write
  by_cases hx : x = a
  · subst hx
    split
    · next h => simp [Memory.read_erase_self, h]
    · simp [Memory.read_insert_self _ _ _ (fun c hc => (Memory.mem_erase.mp hc).2)]
  · split
    · simp [Memory.read_erase_of_ne m hx]
    · simp [Memory.read_insert_of_ne _ _ hx, Memory.read_erase_of_ne m hx]

@[simp] theorem Memory.read_write_self (m : Memory w) (a : Nat) (b : BitVec w) :
    Memory.read (Memory.write m a b) a = b := by simp [Memory.read_write]

theorem Memory.read_write_of_ne (m : Memory w) {a x : Nat} (b : BitVec w) (h : x ≠ a) :
    Memory.read (Memory.write m a b) x = Memory.read m x := by simp [Memory.read_write, h]

/-- The image constructor lays the list's bytes out from `i` on and nothing else. -/
theorem Memory.read_ofBytes (l : List Byte) (i x : Nat) :
    Memory.read (Memory.ofBytes i l) x = if i ≤ x then l.getD (x - i) 0 else 0 := by
  induction l generalizing i with
  | nil => simp [Memory.ofBytes]
  | cons b bs ih =>
    have key : (if i + 1 ≤ x then bs.getD (x - (i + 1)) 0 else 0) =
        if i ≤ x ∧ x ≠ i then (b :: bs).getD (x - i) 0 else 0 := by
      by_cases h : i + 1 ≤ x
      · have e : x - i = x - (i + 1) + 1 := by omega
        rw [if_pos h, if_pos (by omega), e, List.getD_cons_succ]
      · rw [if_neg h, if_neg (by omega)]
    simp only [Memory.ofBytes]
    split
    · next hb =>
      rw [ih, key]
      by_cases hx : x = i
      · subst hx; simp [hb]
      · simp [hx]
    · simp only [Memory.read, ih, key]
      by_cases hx : x = i
      · subst hx; simp
      · simp [hx]

/-! ## The canonical form -/

theorem Memory.wf_nil : Memory.wf ([] : Memory w) := by simp [Memory.wf]

theorem Memory.wf_erase {m : Memory w} (h : Memory.wf m) (a : Nat) : Memory.wf (Memory.erase m a) :=
  ⟨h.1.filter _, fun c hc => h.2 c (Memory.mem_erase.mp hc).1⟩

theorem Memory.wf_insert {a : Nat} {b : BitVec w} {m : Memory w} (h : Memory.wf m) (hb : b ≠ 0)
    (ha : ∀ c ∈ m, c.1 ≠ a) : Memory.wf (Memory.insert a b m) := by
  refine ⟨?_, ?_⟩
  · induction m with
    | nil => simp [Memory.insert]
    | cons e rest ih =>
      obtain ⟨k, x⟩ := e
      have hp := List.pairwise_cons.mp h.1
      have hk : k ≠ a := ha (k, x) (by simp)
      simp only [Memory.insert]
      split
      · next hlt =>
        refine List.pairwise_cons.mpr ⟨?_, h.1⟩
        intro c hc
        rcases List.mem_cons.mp hc with rfl | hc
        · exact hlt
        · have := hp.1 c hc; simp at this ⊢; omega
      · refine List.pairwise_cons.mpr ⟨?_, ih ⟨hp.2, fun c hc => h.2 c (by simp [hc])⟩ (fun c hc => ha c (by simp [hc]))⟩
        intro c hc
        rcases Memory.mem_insert.mp hc with rfl | hc
        · simp; omega
        · exact hp.1 c hc
  · intro c hc
    rcases Memory.mem_insert.mp hc with rfl | hc
    · exact hb
    · exact h.2 c hc

/-- A store keeps the canonical form. -/
theorem Memory.wf_write {m : Memory w} (h : Memory.wf m) (a : Nat) (b : BitVec w) : Memory.wf (Memory.write m a b) := by
  unfold Memory.write
  split
  · exact Memory.wf_erase h a
  · next hb => exact Memory.wf_insert (Memory.wf_erase h a) hb (fun c hc => (Memory.mem_erase.mp hc).2)

theorem Memory.wf_writeAll {m : Memory w} (h : Memory.wf m) (l : List (Nat × BitVec w)) :
    Memory.wf (Memory.writeAll m l) := by
  induction l generalizing m with
  | nil => exact h
  | cons c l ih => exact ih (Memory.wf_write h c.1 c.2)

theorem Memory.ofBytes_ge (l : List Byte) (i : Nat) : ∀ c ∈ Memory.ofBytes i l, i ≤ c.1 := by
  induction l generalizing i with
  | nil => simp [Memory.ofBytes]
  | cons b bs ih =>
    intro c hc
    simp only [Memory.ofBytes] at hc
    split at hc
    · have := ih _ c hc; omega
    · rcases List.mem_cons.mp hc with rfl | hc
      · exact Nat.le_refl _
      · have := ih _ c hc; omega

theorem Memory.wf_ofBytes (l : List Byte) (i : Nat) : Memory.wf (Memory.ofBytes i l) := by
  induction l generalizing i with
  | nil => exact Memory.wf_nil
  | cons b bs ih =>
    simp only [Memory.ofBytes]
    split
    · exact ih _
    · next hb =>
      refine ⟨List.pairwise_cons.mpr ⟨fun c hc => ?_, (ih _).1⟩, ?_⟩
      · have := Memory.ofBytes_ge bs (i + 1) c hc; simp; omega
      · intro c hc
        rcases List.mem_cons.mp hc with rfl | hc
        · exact hb
        · exact (ih _).2 c hc

/-! ## The bound -/

theorem Memory.below_nil (n : Nat) : Memory.below n ([] : Memory w) := by simp [Memory.below]

theorem Memory.below_write {m : Memory w} {n : Nat} (h : Memory.below n m) {a : Nat} (ha : a < n) (b : BitVec w) :
    Memory.below n (Memory.write m a b) := by
  intro c hc
  unfold Memory.write at hc
  split at hc
  · exact h c (Memory.mem_erase.mp hc).1
  · rcases Memory.mem_insert.mp hc with rfl | hc
    · exact ha
    · exact h c (Memory.mem_erase.mp hc).1

theorem Memory.below_writeAll {m : Memory w} {n : Nat} (h : Memory.below n m) {l : List (Nat × BitVec w)}
    (hl : ∀ c ∈ l, c.1 < n) : Memory.below n (Memory.writeAll m l) := by
  induction l generalizing m with
  | nil => exact h
  | cons c l ih => exact ih (Memory.below_write h (hl c (by simp)) c.2) (fun e he => hl e (by simp [he]))

theorem Memory.below_ofBytes (l : List Byte) (i : Nat) : Memory.below (i + l.length) (Memory.ofBytes i l) := by
  induction l generalizing i with
  | nil => simp [Memory.ofBytes, Memory.below]
  | cons b bs ih =>
    intro c hc
    simp only [Memory.ofBytes, List.length_cons] at hc ⊢
    split at hc
    · have := ih _ c hc; omega
    · rcases List.mem_cons.mp hc with rfl | hc
      · simp
      · have := ih _ c hc; omega

/-- A read outside the bound gives the unlisted value. -/
theorem Memory.read_of_below {m : Memory w} {n a : Nat} (h : Memory.below n m) (ha : n ≤ a) : Memory.read m a = 0 := by
  induction m with
  | nil => rfl
  | cons e rest ih =>
    have he := h e (by simp)
    simp only [Memory.read]
    rw [if_neg (by omega)]
    exact ih (fun c hc => h c (by simp [hc]))

/-- Two canonical memories that read alike are equal. -/
theorem Memory.ext_read {m n : Memory w} (hm : Memory.wf m) (hn : Memory.wf n)
    (h : ∀ a, Memory.read m a = Memory.read n a) : m = n := by
  have gt : ∀ (k : Nat) (x : BitVec w) (l : Memory w), Memory.wf ((k, x) :: l) → ∀ a ≤ k, Memory.read l a = 0 := by
    intro k x l hl a ha
    have hp := (List.pairwise_cons.mp hl.1).1
    clear hl
    induction l with
    | nil => rfl
    | cons e l ih =>
      have := hp e (by simp)
      simp only [Memory.read]
      rw [if_neg (by simp at this; omega)]
      exact ih (fun c hc => hp c (by simp [hc]))
  induction m generalizing n with
  | nil =>
    cases n with
    | nil => rfl
    | cons e n =>
      have := h e.1
      have hz := hn.2 e (by simp)
      simp [Memory.read] at this
      exact absurd this.symm hz
  | cons e m ih =>
    obtain ⟨k, x⟩ := e
    have hx : x ≠ 0 := hm.2 (k, x) (by simp)
    cases n with
    | nil => have := h k; simp [Memory.read] at this; exact absurd this hx
    | cons f n =>
      obtain ⟨j, y⟩ := f
      have hy : y ≠ 0 := hn.2 (j, y) (by simp)
      have hkj : k = j := by
        rcases Nat.lt_trichotomy k j with hlt | rfl | hlt
        · have := h k
          simp [Memory.read, Nat.ne_of_lt hlt, gt j y n hn k (by omega)] at this
          exact absurd this hx
        · rfl
        · have := h j
          simp [Memory.read, Nat.ne_of_lt hlt, gt k x m hm j (by omega)] at this
          exact absurd this.symm hy
      subst hkj
      have hxy : x = y := by simpa [Memory.read] using h k
      subst hxy
      congr 1
      refine ih ⟨(List.pairwise_cons.mp hm.1).2, fun c hc => hm.2 c (by simp [hc])⟩
        ⟨(List.pairwise_cons.mp hn.1).2, fun c hc => hn.2 c (by simp [hc])⟩ (fun a => ?_)
      by_cases ha : a ≤ k
      · rw [gt k x m hm a ha, gt k x n hn a ha]
      · have := h a
        simpa [Memory.read, show a ≠ k by omega] using this

end Sys2Proof.Machine
end

