-- ==== Sys2Proof/Laws/Frames.lean ====
section
/-! SUPPORT. Frames.lean: what the shared operations may change, said once: a PPU-side access (R250, R251), a capability
call (R335), a bus access (R180), a core program (R386), and the operations of a dot before the position step (R270). -/

namespace Sys2Proof.Machine

variable {c : Cfg} {m m' m'' : Mach}

/-! ## Capability calls -/

/-- What no capability call changes (R335, R340). -/
structure CapFrame (k k' : Cartridge) : Prop where
  header : k'.header = k.header
  prgRom : k'.prgRom = k.prgRom
  chrIsRam : k'.chrIsRam = k.chrIsRam
  rom : k.chrIsRam = false → k'.chr = k.chr

theorem CapFrame.refl (k : Cartridge) : CapFrame k k := ⟨rfl, rfl, rfl, fun _ => rfl⟩

theorem chrWrite_frame (k : Cartridge) (a : PpuAddr) (d : Byte) : CapFrame k (chrWrite k a d) := by
  unfold chrWrite
  split
  · next h => exact ⟨rfl, rfl, rfl, fun hf => by simp [hf] at h⟩
  · exact CapFrame.refl k

theorem mapCpuRead_frame (c : Cfg) (k : Cartridge) (a : Addr) : CapFrame k (mapCpuRead c k a).2 := by
  unfold mapCpuRead
  split
  · exact CapFrame.refl k
  · exact CapFrame.refl k
  · exact CapFrame.refl k
  · unfold furtherCpuRead
    split
    · exact CapFrame.refl k
    · exact ⟨rfl, rfl, rfl, fun _ => rfl⟩

theorem mapCpuWrite_frame (c : Cfg) (k : Cartridge) (a : Addr) (d : Byte) : CapFrame k (mapCpuWrite c k a d) := by
  have hp : CapFrame k (prgRamWrite c k a d) := ⟨rfl, rfl, rfl, fun _ => rfl⟩
  unfold mapCpuWrite
  split
  · unfold nromCpuWrite
    split
    · exact hp
    · exact CapFrame.refl k
  · unfold uxromCpuWrite
    split
    · exact hp
    · split
      · exact ⟨rfl, rfl, rfl, fun _ => rfl⟩
      · exact CapFrame.refl k
  · unfold cnromCpuWrite
    split
    · exact hp
    · split
      · exact ⟨rfl, rfl, rfl, fun _ => rfl⟩
      · exact CapFrame.refl k
  · unfold furtherCpuWrite
    split
    · exact CapFrame.refl k
    · exact ⟨rfl, rfl, rfl, fun _ => rfl⟩

theorem mapPpuRead_frame (c : Cfg) (k : Cartridge) (a : PpuAddr) : CapFrame k (mapPpuRead c k a).2 := by
  unfold mapPpuRead
  split
  · exact CapFrame.refl k
  · exact CapFrame.refl k
  · exact CapFrame.refl k
  · unfold furtherPpuRead
    split
    · exact CapFrame.refl k
    · exact ⟨rfl, rfl, rfl, fun _ => rfl⟩

theorem mapPpuWrite_frame (c : Cfg) (k : Cartridge) (a : PpuAddr) (d : Byte) : CapFrame k (mapPpuWrite c k a d) := by
  unfold mapPpuWrite
  split
  · exact chrWrite_frame k a d
  · exact chrWrite_frame k a d
  · exact chrWrite_frame k a d
  · unfold furtherPpuWrite
    split
    · exact CapFrame.refl k
    · refine ⟨rfl, rfl, rfl, fun hf => ?_⟩
      simp [hf]

/-- The reference variants read without changing anything (R345, R347). -/
theorem mapCpuRead_reference {k : Cartridge} (h : ∀ id regs, k.mapper ≠ .further id regs) (a : Addr) :
    (mapCpuRead c k a).2 = k := by
  unfold mapCpuRead
  split <;> first | rfl | (next e => exact absurd e (h _ _))

theorem mapPpuRead_reference {k : Cartridge} (h : ∀ id regs, k.mapper ≠ .further id regs) (a : PpuAddr) :
    (mapPpuRead c k a).2 = k := by
  unfold mapPpuRead
  split <;> first | rfl | (next e => exact absurd e (h _ _))

/-! ## A PPU-side read changes at most the cartridge's own registers -/

theorem ppuRead_eq_setCart (c : Cfg) (a : PpuAddr) (m : Mach) :
    (ppuRead c a m).2 = m.setCart (ppuRead c a m).2.cart := by
  unfold ppuRead patternRead
  split
  · split
    · rfl
    · rfl
  · rfl
  · rfl

section ppuRead

variable (c : Cfg) (a : PpuAddr) (m : Mach)

@[simp] theorem ppuRead_core : (ppuRead c a m).2.core = m.core := by rw [ppuRead_eq_setCart]; rfl
@[simp] theorem ppuRead_cpu : (ppuRead c a m).2.cpu = m.cpu := by rw [ppuRead_eq_setCart]; rfl
@[simp] theorem ppuRead_dma : (ppuRead c a m).2.dma = m.dma := by rw [ppuRead_eq_setCart]; rfl
@[simp] theorem ppuRead_bus : (ppuRead c a m).2.bus = m.bus := by rw [ppuRead_eq_setCart]; rfl
@[simp] theorem ppuRead_ppu : (ppuRead c a m).2.ppu = m.ppu := by rw [ppuRead_eq_setCart]; rfl
@[simp] theorem ppuRead_pad0 : (ppuRead c a m).2.pad0 = m.pad0 := by rw [ppuRead_eq_setCart]; rfl
@[simp] theorem ppuRead_pad1 : (ppuRead c a m).2.pad1 = m.pad1 := by rw [ppuRead_eq_setCart]; rfl
@[simp] theorem ppuRead_audio : (ppuRead c a m).2.audio = m.audio := by rw [ppuRead_eq_setCart]; rfl

end ppuRead

/-! ## A bus access -/

/-- What no bus access changes: the core's state, the driver's state, the running fields of the DMA engine, the
position and the pipeline of the picture generator, and what was drawn. -/
structure BusFrame (m m' : Mach) : Prop where
  core : m'.core = m.core
  cpu : m'.cpu = m.cpu
  dmaActive : m'.dma.active = m.dma.active
  dmaWait : m'.dma.wait = m.dma.wait
  dmaIndex : m'.dma.index = m.dma.index
  dmaPhase : m'.dma.phase = m.dma.phase
  dmaLatch : m'.dma.latch = m.dma.latch
  scanline : m'.ppu.scanline = m.ppu.scanline
  cycle : m'.ppu.cycle = m.ppu.cycle
  frame : m'.ppu.frame = m.ppu.frame
  spCount : m'.ppu.spCount = m.ppu.spCount
  sp : m'.ppu.sp = m.ppu.sp
  fb : m'.ppu.fb = m.ppu.fb
  live0 : m'.pad0.live = m.pad0.live
  live1 : m'.pad1.live = m.pad1.live

theorem BusFrame.refl (m : Mach) : BusFrame m m :=
  ⟨rfl, rfl, rfl, rfl, rfl, rfl, rfl, rfl, rfl, rfl, rfl, rfl, rfl, rfl, rfl⟩

theorem BusFrame.trans (h : BusFrame m m') (g : BusFrame m' m'') : BusFrame m m'' := by
  constructor
  · exact g.core.trans h.core
  · exact g.cpu.trans h.cpu
  · exact g.dmaActive.trans h.dmaActive
  · exact g.dmaWait.trans h.dmaWait
  · exact g.dmaIndex.trans h.dmaIndex
  · exact g.dmaPhase.trans h.dmaPhase
  · exact g.dmaLatch.trans h.dmaLatch
  · exact g.scanline.trans h.scanline
  · exact g.cycle.trans h.cycle
  · exact g.frame.trans h.frame
  · exact g.spCount.trans h.spCount
  · exact g.sp.trans h.sp
  · exact g.fb.trans h.fb
  · exact g.live0.trans h.live0
  · exact g.live1.trans h.live1

theorem BusFrame.setOpenBus (m : Mach) (b : Byte) : BusFrame m (m.setOpenBus b) := by constructor <;> rfl

theorem ppuRead_busFrame (c : Cfg) (a : PpuAddr) (m : Mach) : BusFrame m (ppuRead c a m).2 := by
  rw [ppuRead_eq_setCart]; constructor <;> rfl

theorem ppuWrite_busFrame (c : Cfg) (a : PpuAddr) (d : Byte) (m : Mach) : BusFrame m (ppuWrite c a d m) := by
  unfold ppuWrite patternWrite
  split
  · split
    · (constructor <;> rfl)
    · (constructor <;> rfl)
  · (constructor <;> rfl)
  · (constructor <;> rfl)

theorem dataRead_busFrame (c : Cfg) (m : Mach) : BusFrame m (dataRead c m).2 := by
  unfold dataRead
  dsimp only
  split
  · exact (ppuRead_busFrame c _ m).trans (by constructor <;> rfl)
  · exact ((ppuRead_busFrame c _ m).trans (ppuRead_busFrame c _ _)).trans
      (by constructor <;> rfl)

theorem dataWrite_busFrame (c : Cfg) (d : Byte) (m : Mach) : BusFrame m (dataWrite c d m) :=
  (ppuWrite_busFrame c _ d m).trans (by constructor <;> rfl)

theorem readPad_live (p : Pad) : (readPad p).2.live = p.live := by
  unfold readPad; split <;> first | rfl | (split <;> rfl)

theorem strobePad_live (d : Byte) (p : Pad) : (strobePad d p).live = p.live := by
  unfold strobePad; split <;> rfl

theorem joyRead_busFrame (p : Port) (m : Mach) : BusFrame m (joyRead p m).2 := by
  have h := readPad_live (m.pad p)
  cases p
  · exact ⟨rfl, rfl, rfl, rfl, rfl, rfl, rfl, rfl, rfl, rfl, rfl, rfl, rfl, h, rfl⟩
  · exact ⟨rfl, rfl, rfl, rfl, rfl, rfl, rfl, rfl, rfl, rfl, rfl, rfl, rfl, rfl, h⟩

/-- A read operation of the bus, whatever the address. -/
theorem readTarget_busFrame (c : Cfg) (a : Addr) (m : Mach) : BusFrame m (readTarget c a m).2 := by
  unfold readTarget
  split
  · (constructor <;> rfl)
  · (constructor <;> rfl)
  · (constructor <;> rfl)
  · (constructor <;> rfl)
  · exact dataRead_busFrame c m
  · (constructor <;> rfl)
  · (constructor <;> rfl)
  · exact joyRead_busFrame _ m
  · exact joyRead_busFrame _ m
  · (constructor <;> rfl)
  · unfold cartRead
    split
    · (constructor <;> rfl)
    · (constructor <;> rfl)

/-- A write operation of the bus, whatever the address. -/
theorem writeTarget_busFrame (c : Cfg) (a : Addr) (d : Byte) (m : Mach) : BusFrame m (writeTarget c a d m) := by
  unfold writeTarget
  split
  · (constructor <;> rfl)
  · (constructor <;> rfl)
  · (constructor <;> rfl)
  · (constructor <;> rfl)
  · (constructor <;> rfl)
  · (constructor <;> rfl)
  · unfold scrollWrite; split <;> (constructor <;> rfl)
  · unfold addrWrite; split <;> (constructor <;> rfl)
  · exact dataWrite_busFrame c d m
  · (constructor <;> rfl)
  · (constructor <;> rfl)
  · exact ⟨rfl, rfl, rfl, rfl, rfl, rfl, rfl, rfl, rfl, rfl, rfl, rfl, rfl, strobePad_live d m.pad0, strobePad_live d m.pad1⟩
  · (constructor <;> rfl)
  · (constructor <;> rfl)
  · unfold cartWrite
    split
    · (constructor <;> rfl)
    · (constructor <;> rfl)

theorem busRead_frame (c : Cfg) (a : Addr) (m : Mach) : BusFrame m (busRead c a m).2 :=
  (readTarget_busFrame c a m).trans (BusFrame.setOpenBus _ _)

theorem busWrite_frame (c : Cfg) (a : Addr) (d : Byte) (m : Mach) : BusFrame m (busWrite c a d m) :=
  (BusFrame.setOpenBus m d).trans (writeTarget_busFrame c a d _)

/-! ## A core program -/

/-- A property that every bus access keeps holds after a whole core program (R386). -/
theorem runProg_keeps {P : Mach → Prop} (hr : ∀ a m, P m → P (busRead c a m).2)
    (hw : ∀ a d m, P m → P (busWrite c a d m)) (pr : Prog) (m : Mach) (h : P m) : P (runProg c pr m).2 := by
  induction pr generalizing m with
  | done core extra => exact h
  | read a k ih => exact ih _ _ (hr a m h)
  | write a d k ih => exact ih _ (hw a d m h)

theorem runProg_frame (c : Cfg) (pr : Prog) (m : Mach) : BusFrame m (runProg c pr m).2 :=
  runProg_keeps (P := BusFrame m) (fun a x h => h.trans (busRead_frame c a x))
    (fun a d x h => h.trans (busWrite_frame c a d x)) pr m (BusFrame.refl m)

/-- A core program takes at least one cycle (R384). -/
theorem runProg_cycles_pos (c : Cfg) (pr : Prog) (m : Mach) : 1 ≤ (runProg c pr m).1.2 := by
  induction pr generalizing m with
  | done core extra => exact Nat.succ_le_succ (Nat.zero_le _)
  | read a k ih => exact ih _ _
  | write a d k ih => exact ih _

/-! ## A dot before its position step -/

/-- What the operations of a dot before the position step leave alone. -/
structure DotFrame (m m' : Mach) : Prop where
  core : m'.core = m.core
  busy : m'.cpu.busy = m.cpu.busy
  irqLine : m'.cpu.irqLine = m.cpu.irqLine
  cycles : m'.cpu.cycles = m.cpu.cycles
  dma : m'.dma = m.dma
  bus : m'.bus = m.bus
  pad0 : m'.pad0 = m.pad0
  pad1 : m'.pad1 = m.pad1
  audio : m'.audio = m.audio
  ctrl : m'.ppu.ctrl = m.ppu.ctrl
  mask : m'.ppu.mask = m.ppu.mask
  oamAddr : m'.ppu.oamAddr = m.ppu.oamAddr
  t : m'.ppu.t = m.ppu.t
  x : m'.ppu.x = m.ppu.x
  w : m'.ppu.w = m.ppu.w
  readBuffer : m'.ppu.readBuffer = m.ppu.readBuffer
  scanline : m'.ppu.scanline = m.ppu.scanline
  cycle : m'.ppu.cycle = m.ppu.cycle
  frame : m'.ppu.frame = m.ppu.frame
  oam : m'.ppu.oam = m.ppu.oam
  vram : m'.ppu.vram = m.ppu.vram
  palette : m'.ppu.palette = m.ppu.palette

theorem DotFrame.refl (m : Mach) : DotFrame m m :=
  ⟨rfl, rfl, rfl, rfl, rfl, rfl, rfl, rfl, rfl, rfl, rfl, rfl, rfl, rfl, rfl, rfl, rfl, rfl, rfl, rfl, rfl, rfl⟩

theorem DotFrame.trans (h : DotFrame m m') (g : DotFrame m' m'') : DotFrame m m'' := by
  constructor
  · exact g.core.trans h.core
  · exact g.busy.trans h.busy
  · exact g.irqLine.trans h.irqLine
  · exact g.cycles.trans h.cycles
  · exact g.dma.trans h.dma
  · exact g.bus.trans h.bus
  · exact g.pad0.trans h.pad0
  · exact g.pad1.trans h.pad1
  · exact g.audio.trans h.audio
  · exact g.ctrl.trans h.ctrl
  · exact g.mask.trans h.mask
  · exact g.oamAddr.trans h.oamAddr
  · exact g.t.trans h.t
  · exact g.x.trans h.x
  · exact g.w.trans h.w
  · exact g.readBuffer.trans h.readBuffer
  · exact g.scanline.trans h.scanline
  · exact g.cycle.trans h.cycle
  · exact g.frame.trans h.frame
  · exact g.oam.trans h.oam
  · exact g.vram.trans h.vram
  · exact g.palette.trans h.palette

/-- An update of picture-generator fields outside the frame. -/
theorem DotFrame.ppuRead_then {c : Cfg} {a : PpuAddr} (h : DotFrame m m')
    (g : DotFrame (ppuRead c a m').2 m'') : DotFrame m m'' := by
  refine h.trans (DotFrame.trans ?_ g)
  rw [ppuRead_eq_setCart]; constructor <;> rfl

theorem pixel_dotFrame (c : Cfg) (m : Mach) : DotFrame m (pixel c m) := by constructor <;> rfl

theorem bgShift_dotFrame (m : Mach) : DotFrame m (bgShift m) := by constructor <;> rfl

theorem bgReload_dotFrame (m : Mach) : DotFrame m (bgReload m) := by constructor <;> rfl

theorem bgFetchNt_dotFrame (c : Cfg) (m : Mach) : DotFrame m (bgFetchNt c m) :=
  (DotFrame.refl m).ppuRead_then (c := c) (a := ntAddr m.ppu.v) (by constructor <;> rfl)

theorem bgFetchAt_dotFrame (c : Cfg) (m : Mach) : DotFrame m (bgFetchAt c m) :=
  (DotFrame.refl m).ppuRead_then (c := c) (a := atAddr m.ppu.v) (by constructor <;> rfl)

theorem bgFetchLo_dotFrame (c : Cfg) (m : Mach) : DotFrame m (bgFetchLo c m) :=
  (DotFrame.refl m).ppuRead_then (c := c) (a := bgPatternAddr m.ppu.ctrl m.ppu.ntByte m.ppu.v) (by constructor <;> rfl)

theorem bgFetchHi_dotFrame (c : Cfg) (m : Mach) : DotFrame m (bgFetchHi c m) :=
  (DotFrame.refl m).ppuRead_then (c := c) (a := bgPatternAddr m.ppu.ctrl m.ppu.ntByte m.ppu.v + 8) (by constructor <;> rfl)

theorem bgDummyNt_dotFrame (c : Cfg) (m : Mach) : DotFrame m (bgDummyNt c m) :=
  (DotFrame.refl m).ppuRead_then (c := c) (a := ntAddr m.ppu.v) (by constructor <;> rfl)

theorem vIncX_dotFrame (m : Mach) : DotFrame m (vIncX m) := by constructor <;> rfl
theorem vIncY_dotFrame (m : Mach) : DotFrame m (vIncY m) := by constructor <;> rfl
theorem vCopyX_dotFrame (m : Mach) : DotFrame m (vCopyX m) := by constructor <;> rfl
theorem vCopyY_dotFrame (m : Mach) : DotFrame m (vCopyY m) := by constructor <;> rfl

theorem vblSet_dotFrame (m : Mach) : DotFrame m (vblSet m) := by
  unfold vblSet
  dsimp only
  split <;> (constructor <;> rfl)

theorem flagsClr_dotFrame (m : Mach) : DotFrame m (flagsClr m) := by constructor <;> rfl

theorem loadUnit_dotFrame (c : Cfg) (n e : Nat) (m : Mach) : DotFrame m (loadUnit c n e m) := by
  unfold loadUnit
  exact ((DotFrame.refl m).ppuRead_then (c := c) (by constructor <;> rfl)).ppuRead_then (c := c) (by constructor <;> rfl)

theorem setSprites_dotFrame (n : Nat) (z : Bool) (m : Mach) : DotFrame m (setSprites n z m) := by constructor <;> rfl

theorem spScan_dotFrame (c : Cfg) (es : List Nat) (n : Nat) (z : Bool) (m : Mach) : DotFrame m (spScan c es n z m) := by
  induction es generalizing n z m with
  | nil => (constructor <;> rfl)
  | cons e es ih =>
    unfold spScan
    split
    · split
      · exact (loadUnit_dotFrame c n e m).trans (ih _ _ _)
      · (constructor <;> rfl)
    · exact ih _ _ _

theorem spLoad_dotFrame (c : Cfg) (m : Mach) : DotFrame m (spLoad c m) := spScan_dotFrame c _ _ _ m
theorem spClear_dotFrame (m : Mach) : DotFrame m (spClear m) := by constructor <;> rfl

theorem dotFlags_dotFrame (s cy : Nat) (m : Mach) : DotFrame m (dotFlags s cy m) := by
  unfold dotFlags
  dsimp only
  split <;> split
  · exact (vblSet_dotFrame m).trans (flagsClr_dotFrame _)
  · exact flagsClr_dotFrame m
  · exact vblSet_dotFrame m
  · (constructor <;> rfl)

theorem dotPixel_dotFrame (c : Cfg) (s cy : Nat) (m : Mach) : DotFrame m (dotPixel c s cy m) := by
  unfold dotPixel
  split
  · exact pixel_dotFrame c m
  · (constructor <;> rfl)

theorem dotFetch_dotFrame (c : Cfg) (cy : Nat) (m : Mach) : DotFrame m (dotFetch c cy m) := by
  unfold dotFetch
  split
  · exact bgFetchNt_dotFrame c m
  · exact bgFetchAt_dotFrame c m
  · exact bgFetchLo_dotFrame c m
  · exact bgFetchHi_dotFrame c m
  · (constructor <;> rfl)
  · (constructor <;> rfl)

theorem DotFrame.ite {p : Prop} [Decidable p] {f : Mach → Mach} (hf : ∀ x, DotFrame x (f x)) (h : DotFrame m m') :
    DotFrame m (if p then f m' else m') := by
  split
  · exact h.trans (hf m')
  · exact h

theorem dotPipeline_dotFrame (c : Cfg) (s cy : Nat) (m : Mach) : DotFrame m (dotPipeline c s cy m) := by
  unfold dotPipeline
  refine DotFrame.ite (bgDummyNt_dotFrame c) (DotFrame.ite vCopyY_dotFrame (DotFrame.ite vCopyX_dotFrame
    (DotFrame.ite vIncY_dotFrame (DotFrame.ite (f := fun x => dotFetch c cy (bgShift x)) (fun x => ?_)
      (DotFrame.refl m)))))
  exact (bgShift_dotFrame x).trans (dotFetch_dotFrame c cy _)

theorem dotSprites_dotFrame (c : Cfg) (s cy : Nat) (r : Bool) (m : Mach) : DotFrame m (dotSprites c s cy r m) := by
  unfold dotSprites
  split
  · split
    · exact spLoad_dotFrame c m
    · exact spClear_dotFrame m
  · (constructor <;> rfl)

/-- A dot before its position step. -/
def dotWork (c : Cfg) (m : Mach) : Mach :=
  let s := m.ppu.scanline
  let cy := m.ppu.cycle
  let render := rendering m.ppu.mask
  let m := dotFlags s cy m
  let m := dotPixel c s cy m
  let m := if renderLine s && render then dotPipeline c s cy m else m
  dotSprites c s cy render m

theorem ppuTick_eq_dotWork (c : Cfg) (m : Mach) : ppuTick c m = dotPosition (dotWork c m) := rfl

theorem dotWork_dotFrame (c : Cfg) (m : Mach) : DotFrame m (dotWork c m) := by
  unfold dotWork
  refine DotFrame.trans (DotFrame.ite (dotPipeline_dotFrame c _ _)
    ((dotFlags_dotFrame _ _ m).trans (dotPixel_dotFrame c _ _ _))) (dotSprites_dotFrame c _ _ _ _)

/-! ## A whole dot -/

/-- What a whole dot leaves alone: everything outside the picture generator but the NMI latch and the cartridge. -/
structure TickFrame (m m' : Mach) : Prop where
  core : m'.core = m.core
  busy : m'.cpu.busy = m.cpu.busy
  irqLine : m'.cpu.irqLine = m.cpu.irqLine
  cycles : m'.cpu.cycles = m.cpu.cycles
  dma : m'.dma = m.dma
  bus : m'.bus = m.bus
  pad0 : m'.pad0 = m.pad0
  pad1 : m'.pad1 = m.pad1
  audio : m'.audio = m.audio
  oamAddr : m'.ppu.oamAddr = m.ppu.oamAddr
  oam : m'.ppu.oam = m.ppu.oam
  vram : m'.ppu.vram = m.ppu.vram
  palette : m'.ppu.palette = m.ppu.palette

theorem dotPosition_eq_setPpu (m : Mach) : ∃ s cy f,
    dotPosition m = m.setPpu { m.ppu with scanline := s, cycle := cy, frame := f } := by
  unfold dotPosition posSkip posAdvance
  dsimp only
  split
  · exact ⟨0, 0, _, rfl⟩
  · split
    · exact ⟨_, _, _, rfl⟩
    · split
      · exact ⟨_, 0, _, rfl⟩
      · exact ⟨0, 0, _, rfl⟩

theorem ppuTick_frame (c : Cfg) (m : Mach) : TickFrame m (ppuTick c m) := by
  have h := dotWork_dotFrame c m
  obtain ⟨s, cy, f, e⟩ := dotPosition_eq_setPpu (dotWork c m)
  rw [ppuTick_eq_dotWork, e]
  exact ⟨h.core, h.busy, h.irqLine, h.cycles, h.dma, h.bus, h.pad0, h.pad1, h.audio, h.oamAddr, h.oam, h.vram, h.palette⟩

theorem TickFrame.trans (h : TickFrame m m') (g : TickFrame m' m'') : TickFrame m m'' :=
  ⟨g.core.trans h.core, g.busy.trans h.busy, g.irqLine.trans h.irqLine, g.cycles.trans h.cycles, g.dma.trans h.dma,
   g.bus.trans h.bus, g.pad0.trans h.pad0, g.pad1.trans h.pad1, g.audio.trans h.audio, g.oamAddr.trans h.oamAddr,
   g.oam.trans h.oam, g.vram.trans h.vram, g.palette.trans h.palette⟩

/-- The three dots of a machine cycle (R380). -/
theorem ppuTick3_frame (c : Cfg) (m : Mach) : TickFrame m ((ppuTick c)^[Config.ppuPerCpu] m) :=
  ((ppuTick_frame c m).trans (ppuTick_frame c _)).trans (ppuTick_frame c _)

end Sys2Proof.Machine
end

