-- ==== Sys2Proof/Laws/Legal.lean ====
section
/-! SUPPORT. Legal.lean: the invariants of R41 and the canonical form of the memories, kept by each shared operation. -/

namespace Sys2Proof.Machine

variable {c : Cfg} {m : Mach}

/-- The sizes a configuration may vary (R8) are large enough for what the rules index with them. -/
structure Adequate (c : Cfg) : Prop where
  vram : 4096 ≤ c.vramSize
  palette : 32 ≤ c.paletteSize
  fbW : 256 ≤ c.fbW
  fbH : 240 ≤ c.fbH
  prgRam : 0 < c.prgRamSize

theorem adequate_cfg : Adequate Config.cfg := by constructor <;> decide

/-! ## Indices -/

theorem ramIndex_eq (a : Addr) : ramIndex a = a.toNat % 2048 := by
  unfold ramIndex
  rw [BitVec.toNat_and]
  exact Nat.and_two_pow_sub_one_eq_mod a.toNat 11

theorem ramIndex_lt (a : Addr) : ramIndex a < Config.ramSize := by
  rw [ramIndex_eq]; exact Nat.mod_lt _ (by decide)

theorem palIndex_lt (a : PpuAddr) : palIndex a < 32 := by
  have h1 : (a &&& 0x1F).toNat = a.toNat % 32 := by
    rw [BitVec.toNat_and]; exact Nat.and_two_pow_sub_one_eq_mod a.toNat 5
  have h2 : ((a &&& 0x1F) &&& 0x0F).toNat = a.toNat % 32 % 16 := by
    rw [BitVec.toNat_and, h1]; exact Nat.and_two_pow_sub_one_eq_mod _ 4
  unfold palIndex
  dsimp only
  split
  · rw [h2]; simp; omega
  · rw [h1]; simp; omega

theorem ntQuarter_lt (mode : MirrorMode) {table : Nat} (h : table < 4) : ntQuarter mode table < 4 := by
  cases mode <;> simp [ntQuarter] <;> omega

theorem ntMap_lt (mode : MirrorMode) (a : PpuAddr) : ntMap mode a < 4096 := by
  have h1 : ((a - 0x2000) &&& 0x0FFF).toNat = (a - 0x2000).toNat % 4096 := by
    rw [BitVec.toNat_and]; exact Nat.and_two_pow_sub_one_eq_mod _ 12
  unfold ntMap
  dsimp only
  rw [h1]
  have ho : (a - 0x2000).toNat % 4096 < 4096 := Nat.mod_lt _ (by decide)
  generalize (a - 0x2000).toNat % 4096 = o at ho ⊢
  have h2 := ntQuarter_lt mode (table := o / 1024) (by omega)
  omega

/-! ## The parts of a legal Machine -/

theorem MachLegal.setPpu (h : MachLegal c m) {p : Ppu} (hp : PpuLegal c p) : MachLegal c (m.setPpu p) :=
  ⟨hp, h.ram, h.pad0, h.pad1, h.wait, h.dma, h.cart⟩

theorem MachLegal.setCore (h : MachLegal c m) (v : Opaque) : MachLegal c (m.setCore v) :=
  ⟨h.ppu, h.ram, h.pad0, h.pad1, h.wait, h.dma, h.cart⟩

theorem MachLegal.setCpu (h : MachLegal c m) (v : Cpu) : MachLegal c (m.setCpu v) :=
  ⟨h.ppu, h.ram, h.pad0, h.pad1, h.wait, h.dma, h.cart⟩

theorem MachLegal.setAudio (h : MachLegal c m) (v : Opaque) : MachLegal c (m.setAudio v) :=
  ⟨h.ppu, h.ram, h.pad0, h.pad1, h.wait, h.dma, h.cart⟩

theorem MachLegal.setDma (h : MachLegal c m) {v : Dma} (hv : v.wait ≤ 2)
    (hd : ¬(v.request = true ∧ v.active = true)) : MachLegal c (m.setDma v) :=
  ⟨h.ppu, h.ram, h.pad0, h.pad1, hv, hd, h.cart⟩

theorem MachLegal.setBus (h : MachLegal c m) {v : Bus}
    (hv : Memory.wf v.ram ∧ Memory.below Config.ramSize v.ram) : MachLegal c (m.setBus v) :=
  ⟨h.ppu, hv, h.pad0, h.pad1, h.wait, h.dma, h.cart⟩

theorem MachLegal.setOpenBus (h : MachLegal c m) (b : Byte) : MachLegal c (m.setOpenBus b) := h.setBus h.ram

theorem MachLegal.setCart (h : MachLegal c m) {v : Option Cartridge} (hv : ∀ k, v = some k → CartLegal c k) :
    MachLegal c (m.setCart v) :=
  ⟨h.ppu, h.ram, h.pad0, h.pad1, h.wait, h.dma, hv⟩

theorem MachLegal.setCartSome (h : MachLegal c m) {k : Cartridge} (hk : CartLegal c k) :
    MachLegal c (m.setCart (some k)) :=
  h.setCart (fun k' e => by cases e; exact hk)

theorem MachLegal.setPad (h : MachLegal c m) (p : Port) {v : Pad} (hv : v.index ≤ 8) : MachLegal c (m.setPad p v) := by
  cases p
  · exact ⟨h.ppu, h.ram, hv, h.pad1, h.wait, h.dma, h.cart⟩
  · exact ⟨h.ppu, h.ram, h.pad0, hv, h.wait, h.dma, h.cart⟩

theorem MachLegal.pad (h : MachLegal c m) (p : Port) : (m.pad p).index ≤ 8 := by
  cases p
  · exact h.pad0
  · exact h.pad1

/-- A picture generator that differs in fields no invariant speaks of. -/
theorem PpuLegal.congr {p q : Ppu} (h : PpuLegal c p) (e : q.scanline = p.scanline ∧ q.cycle = p.cycle ∧ q.frame = p.frame ∧
    q.spCount = p.spCount ∧ q.sp = p.sp ∧ q.oam = p.oam ∧ q.vram = p.vram ∧ q.palette = p.palette ∧ q.fb = p.fb) :
    PpuLegal c q := by
  obtain ⟨e1, e2, e3, e4, e5, e6, e7, e8, e9⟩ := e
  constructor
  · rw [e1]; exact h.scanline
  · rw [e2]; exact h.cycle
  · rw [e1, e2, e3]; exact h.odd
  · rw [e4]; exact h.spCount
  · rw [e5]; exact h.units
  · rw [e6]; exact h.oam
  · rw [e7]; exact h.vram
  · rw [e8]; exact h.palette
  · rw [e9]; exact h.fb

/-! ## The cartridge -/

theorem CartLegal.setMapper {k : Cartridge} (h : CartLegal c k) (mp : Mapper) : CartLegal c { k with mapper := mp } :=
  ⟨h.banks, h.chrKind, h.prgRom, h.chr, h.prgRam⟩

theorem CartLegal.setPrgRam {k : Cartridge} (h : CartLegal c k) {r : Memory 8}
    (hr : Memory.wf r ∧ Memory.below c.prgRamSize r) : CartLegal c { k with prgRam := r } :=
  ⟨h.banks, h.chrKind, h.prgRom, h.chr, hr⟩

theorem CartLegal.setChr {k : Cartridge} (h : CartLegal c k) {r : Memory 8}
    (hr : Memory.wf r ∧ Memory.below (max k.header.chrBanks.toNat 1 * Config.chrBank) r) :
    CartLegal c { k with chr := r } :=
  ⟨h.banks, h.chrKind, h.prgRom, hr, h.prgRam⟩

theorem prgRamWrite_legal {k : Cartridge} (hc : 0 < c.prgRamSize) (h : CartLegal c k) (a : Addr) (d : Byte) :
    CartLegal c (prgRamWrite c k a d) :=
  h.setPrgRam ⟨Memory.wf_write h.prgRam.1 _ _, Memory.below_write h.prgRam.2 (Nat.mod_lt _ hc) _⟩

theorem chr_bound (n : Nat) : Config.chrBank ≤ max n 1 * Config.chrBank :=
  Nat.le_mul_of_pos_left _ (by omega)

theorem chrWrite_legal {k : Cartridge} (h : CartLegal c k) (a : PpuAddr) (d : Byte) :
    CartLegal c (chrWrite k a d) := by
  unfold chrWrite
  split
  · next ha =>
    simp only [Bool.and_eq_true, decide_eq_true_eq] at ha
    exact h.setChr ⟨Memory.wf_write h.chr.1 _ _,
      Memory.below_write h.chr.2 (Nat.lt_of_lt_of_le ha.2 (chr_bound _)) _⟩
  · exact h

theorem mapCpuRead_legal {k : Cartridge} (h : CartLegal c k) (a : Addr) : CartLegal c (mapCpuRead c k a).2 := by
  unfold mapCpuRead
  split
  · exact h
  · exact h
  · exact h
  · unfold furtherCpuRead
    split
    · exact h
    · exact h.setMapper _

theorem mapPpuRead_legal {k : Cartridge} (h : CartLegal c k) (a : PpuAddr) : CartLegal c (mapPpuRead c k a).2 := by
  unfold mapPpuRead
  split
  · exact h
  · exact h
  · exact h
  · unfold furtherPpuRead
    split
    · exact h
    · exact h.setMapper _

theorem mapCpuWrite_legal {k : Cartridge} (hc : 0 < c.prgRamSize) (h : CartLegal c k) (a : Addr) (d : Byte) :
    CartLegal c (mapCpuWrite c k a d) := by
  have hp := prgRamWrite_legal hc h a d
  unfold mapCpuWrite
  split
  · unfold nromCpuWrite
    split
    · exact hp
    · exact h
  · unfold uxromCpuWrite
    split
    · exact hp
    · split
      · exact h.setMapper _
      · exact h
  · unfold cnromCpuWrite
    split
    · exact hp
    · split
      · exact h.setMapper _
      · exact h
  · unfold furtherCpuWrite
    split
    · exact h
    · refine CartLegal.setMapper (h.setPrgRam ⟨Memory.wf_writeAll h.prgRam.1 _, Memory.below_writeAll h.prgRam.2 ?_⟩) _
      intro e he
      obtain ⟨x, _, rfl⟩ := List.mem_map.mp he
      exact Nat.mod_lt _ hc

theorem mapPpuWrite_legal {k : Cartridge} (h : CartLegal c k) (a : PpuAddr) (d : Byte) :
    CartLegal c (mapPpuWrite c k a d) := by
  unfold mapPpuWrite
  split
  · exact chrWrite_legal h a d
  · exact chrWrite_legal h a d
  · exact chrWrite_legal h a d
  · unfold furtherPpuWrite
    split
    · exact h
    · refine CartLegal.setMapper (k := { k with
        chr := if k.chrIsRam then Memory.writeAll k.chr _ else k.chr }) (h.setChr ?_) _
      split
      · refine ⟨Memory.wf_writeAll h.chr.1 _, Memory.below_writeAll h.chr.2 ?_⟩
        intro e he
        obtain ⟨x, _, rfl⟩ := List.mem_map.mp he
        exact Nat.lt_of_lt_of_le (Nat.mod_lt _ (by decide)) (chr_bound _)
      · exact h.chr

/-! ## PPU-side accesses -/

theorem ppuRead_legal (h : MachLegal c m) (a : PpuAddr) : MachLegal c (ppuRead c a m).2 := by
  unfold ppuRead patternRead
  split
  · split
    · exact h
    · next k hk => exact h.setCartSome (mapPpuRead_legal (h.cart k hk) a)
  · exact h
  · exact h

theorem ppuWrite_legal (hc : Adequate c) (h : MachLegal c m) (a : PpuAddr) (d : Byte) : MachLegal c (ppuWrite c a d m) := by
  unfold ppuWrite
  split
  · unfold patternWrite
    split
    · exact h
    · next k hk => exact h.setCartSome (mapPpuWrite_legal (h.cart k hk) a d)
  · refine h.setPpu { h.ppu with palette := ?_ }
    exact ⟨Memory.wf_write h.ppu.palette.1 _ _, Memory.below_write h.ppu.palette.2 (Nat.lt_of_lt_of_le (palIndex_lt a) hc.palette) _⟩
  · refine h.setPpu { h.ppu with vram := ?_ }
    exact ⟨Memory.wf_write h.ppu.vram.1 _ _, Memory.below_write h.ppu.vram.2 (Nat.lt_of_lt_of_le (ntMap_lt _ a) hc.vram) _⟩

/-! ## Bus accesses -/

theorem oamStore_legal (h : MachLegal c m) (d : Byte) : MachLegal c (oamStore d m) := by
  refine h.setPpu { h.ppu with oam := ?_ }
  exact ⟨Memory.wf_write h.ppu.oam.1 _ _, Memory.below_write h.ppu.oam.2 (m.ppu.oamAddr.isLt) _⟩

theorem readPad_index {p : Pad} (h : p.index ≤ 8) : (readPad p).2.index ≤ 8 := by
  unfold readPad
  split
  · exact h
  · split
    · simp; omega
    · exact h

theorem strobePad_index {p : Pad} (h : p.index ≤ 8) (d : Byte) : (strobePad d p).index ≤ 8 := by
  unfold strobePad
  split
  · exact Nat.zero_le _
  · exact h

/-- A picture generator with port registers changed. -/
theorem MachLegal.setPorts (h : MachLegal c m) {p : Ppu} (e : p.scanline = m.ppu.scanline ∧ p.cycle = m.ppu.cycle ∧
    p.frame = m.ppu.frame ∧ p.spCount = m.ppu.spCount ∧ p.sp = m.ppu.sp ∧ p.oam = m.ppu.oam ∧ p.vram = m.ppu.vram ∧
    p.palette = m.ppu.palette ∧ p.fb = m.ppu.fb) : MachLegal c (m.setPpu p) :=
  h.setPpu (h.ppu.congr e)

theorem dataRead_legal (h : MachLegal c m) : MachLegal c (dataRead c m).2 := by
  unfold dataRead advanceV
  dsimp only
  split
  · exact ((ppuRead_legal h _).setPorts ⟨rfl, rfl, rfl, rfl, rfl, rfl, rfl, rfl, rfl⟩).setPorts
      ⟨rfl, rfl, rfl, rfl, rfl, rfl, rfl, rfl, rfl⟩
  · exact ((ppuRead_legal (ppuRead_legal h _) _).setPorts ⟨rfl, rfl, rfl, rfl, rfl, rfl, rfl, rfl, rfl⟩).setPorts
      ⟨rfl, rfl, rfl, rfl, rfl, rfl, rfl, rfl, rfl⟩

theorem busRead_legal (h : MachLegal c m) (a : Addr) : MachLegal c (busRead c a m).2 := by
  refine MachLegal.setOpenBus ?_ _
  unfold readTarget
  split
  · exact h
  · exact h
  · exact h.setPorts ⟨rfl, rfl, rfl, rfl, rfl, rfl, rfl, rfl, rfl⟩
  · exact h.setPorts ⟨rfl, rfl, rfl, rfl, rfl, rfl, rfl, rfl, rfl⟩
  · exact dataRead_legal h
  · exact h
  · exact h.setAudio _
  · exact h.setPad .one (readPad_index (h.pad .one))
  · exact h.setPad .two (readPad_index (h.pad .two))
  · exact h
  · unfold cartRead
    split
    · exact h
    · next k hk => exact h.setCartSome (mapCpuRead_legal (h.cart k hk) a)

/-- The operation a write selects; the DMA trigger finds the engine at rest (R191). -/
theorem writeTarget_legal (hc : Adequate c) (h : MachLegal c m) (a : Addr) (d : Byte)
    (ha : cpuWriteOp a = .dma → m.dma.active = false) : MachLegal c (writeTarget c a d m) := by
  unfold writeTarget
  split
  · exact h.setBus ⟨Memory.wf_write h.ram.1 _ _, Memory.below_write h.ram.2 (ramIndex_lt a) _⟩
  · exact h.setPorts ⟨rfl, rfl, rfl, rfl, rfl, rfl, rfl, rfl, rfl⟩
  · exact h.setPorts ⟨rfl, rfl, rfl, rfl, rfl, rfl, rfl, rfl, rfl⟩
  · exact h
  · exact h.setPorts ⟨rfl, rfl, rfl, rfl, rfl, rfl, rfl, rfl, rfl⟩
  · exact oamStore_legal h d
  · unfold scrollWrite
    split <;> exact h.setPorts ⟨rfl, rfl, rfl, rfl, rfl, rfl, rfl, rfl, rfl⟩
  · unfold addrWrite
    split <;> exact h.setPorts ⟨rfl, rfl, rfl, rfl, rfl, rfl, rfl, rfl, rfl⟩
  · exact (ppuWrite_legal hc h _ d).setPorts ⟨rfl, rfl, rfl, rfl, rfl, rfl, rfl, rfl, rfl⟩
  · next e => exact h.setDma h.wait (by simp [ha e])
  · exact h.setAudio _
  · exact MachLegal.setPad (h.setPad .one (strobePad_index h.pad0 d)) .two (strobePad_index h.pad1 d)
  · exact h.setAudio _
  · exact h
  · unfold cartWrite
    split
    · exact h
    · next k hk => exact h.setCartSome (mapCpuWrite_legal hc.prgRam (h.cart k hk) a d)

theorem busWrite_legal (hc : Adequate c) (h : MachLegal c m) (ha : m.dma.active = false) (a : Addr) (d : Byte) :
    MachLegal c (busWrite c a d m) :=
  writeTarget_legal hc (h.setOpenBus d) a d (fun _ => ha)

/-- A core program runs while the DMA engine is at rest (R102). -/
theorem runProg_legal (hc : Adequate c) (h : MachLegal c m) (ha : m.dma.active = false) (pr : Prog) :
    MachLegal c (runProg c pr m).2 :=
  (runProg_keeps (P := fun x => MachLegal c x ∧ x.dma.active = false)
    (fun a x hx => ⟨busRead_legal hx.1 a, (busRead_frame c a x).dmaActive.trans hx.2⟩)
    (fun a d x hx => ⟨busWrite_legal hc hx.1 hx.2 a d, (busWrite_frame c a d x).dmaActive.trans hx.2⟩) pr m ⟨h, ha⟩).1

/-! ## Dots -/

/-- A dot operation that changes no memory but the frame buffer and the sprite units. -/
theorem PpuLegal.drawn {p q : Ppu} (h : PpuLegal c p) (e : q.scanline = p.scanline ∧ q.cycle = p.cycle ∧ q.frame = p.frame ∧
    q.oam = p.oam ∧ q.vram = p.vram ∧ q.palette = p.palette) (hn : q.spCount ≤ 8) (hu : q.sp.length = 8)
    (hf : Memory.wf q.fb ∧ Memory.below (c.fbW * c.fbH) q.fb) : PpuLegal c q := by
  obtain ⟨e1, e2, e3, e4, e5, e6⟩ := e
  constructor
  · rw [e1]; exact h.scanline
  · rw [e2]; exact h.cycle
  · rw [e1, e2, e3]; exact h.odd
  · exact hn
  · exact hu
  · rw [e4]; exact h.oam
  · rw [e5]; exact h.vram
  · rw [e6]; exact h.palette
  · exact hf

theorem pixel_legal (hc : Adequate c) (h : MachLegal c m) (hs : m.ppu.scanline ≤ 239) (h1 : 1 ≤ m.ppu.cycle) (h2 : m.ppu.cycle ≤ 256) :
    MachLegal c (pixel c m) := by
  refine h.setPpu (h.ppu.drawn ⟨rfl, rfl, rfl, rfl, rfl, rfl⟩ h.ppu.spCount h.ppu.units ?_)
  refine ⟨Memory.wf_write h.ppu.fb.1 _ _, Memory.below_write h.ppu.fb.2 ?_ _⟩
  have h3 : (m.ppu.scanline + 1) * c.fbW ≤ c.fbH * c.fbW := Nat.mul_le_mul_right _ (by have := hc.fbH; omega)
  have h4 := hc.fbW
  rw [Nat.mul_comm c.fbW c.fbH]
  rw [Nat.add_mul, Nat.one_mul] at h3
  unfold fbIndex
  omega

theorem vblSet_legal (h : MachLegal c m) : MachLegal c (vblSet m) := by
  have h' : MachLegal c (m.setPpu { m.ppu with vblank := true }) :=
    h.setPorts ⟨rfl, rfl, rfl, rfl, rfl, rfl, rfl, rfl, rfl⟩
  unfold vblSet
  dsimp only
  split
  · exact h'.setCpu _
  · exact h'

theorem flagsClr_legal (h : MachLegal c m) : MachLegal c (flagsClr m) :=
  h.setPorts ⟨rfl, rfl, rfl, rfl, rfl, rfl, rfl, rfl, rfl⟩

theorem bgShift_legal (h : MachLegal c m) : MachLegal c (bgShift m) :=
  h.setPorts ⟨rfl, rfl, rfl, rfl, rfl, rfl, rfl, rfl, rfl⟩

theorem fetch_legal (h : MachLegal c m) (a : PpuAddr) {f : Ppu → Byte → Ppu}
    (e : ∀ p b, (f p b).scanline = p.scanline ∧ (f p b).cycle = p.cycle ∧
    (f p b).frame = p.frame ∧ (f p b).spCount = p.spCount ∧ (f p b).sp = p.sp ∧ (f p b).oam = p.oam ∧
    (f p b).vram = p.vram ∧ (f p b).palette = p.palette ∧ (f p b).fb = p.fb) :
    MachLegal c ((ppuRead c a m).2.setPpu (f (ppuRead c a m).2.ppu (ppuRead c a m).1)) :=
  (ppuRead_legal h a).setPorts (e _ _)

theorem dotFetch_legal (h : MachLegal c m) (cy : Nat) : MachLegal c (dotFetch c cy m) := by
  unfold dotFetch
  split
  · exact fetch_legal h _ (f := fun p b => { p with ntByte := b }) (fun _ _ => ⟨rfl, rfl, rfl, rfl, rfl, rfl, rfl, rfl, rfl⟩)
  · exact fetch_legal h _ (f := fun p b => { p with atBits := atSelect b m.ppu.v })
      (fun _ _ => ⟨rfl, rfl, rfl, rfl, rfl, rfl, rfl, rfl, rfl⟩)
  · exact fetch_legal h _ (f := fun p b => { p with ptLo := b }) (fun _ _ => ⟨rfl, rfl, rfl, rfl, rfl, rfl, rfl, rfl, rfl⟩)
  · exact fetch_legal h _ (f := fun p b => { p with ptHi := b }) (fun _ _ => ⟨rfl, rfl, rfl, rfl, rfl, rfl, rfl, rfl, rfl⟩)
  · exact (h.setPorts ⟨rfl, rfl, rfl, rfl, rfl, rfl, rfl, rfl, rfl⟩).setPorts ⟨rfl, rfl, rfl, rfl, rfl, rfl, rfl, rfl, rfl⟩
  · exact h

theorem MachLegal.ite {p : Prop} [Decidable p] {f : Mach → Mach} (hf : ∀ x, MachLegal c x → MachLegal c (f x))
    (h : MachLegal c m) : MachLegal c (if p then f m else m) := by
  split
  · exact hf m h
  · exact h

theorem dotPipeline_legal (h : MachLegal c m) (s cy : Nat) : MachLegal c (dotPipeline c s cy m) := by
  unfold dotPipeline
  refine MachLegal.ite (fun x hx => ?_) (MachLegal.ite (fun x hx => ?_) (MachLegal.ite (fun x hx => ?_)
    (MachLegal.ite (fun x hx => ?_) (MachLegal.ite (f := fun x => dotFetch c cy (bgShift x)) (fun x hx => ?_) h))))
  · exact fetch_legal hx _ (f := fun p b => { p with ntByte := b }) (fun _ _ => ⟨rfl, rfl, rfl, rfl, rfl, rfl, rfl, rfl, rfl⟩)
  · exact hx.setPorts ⟨rfl, rfl, rfl, rfl, rfl, rfl, rfl, rfl, rfl⟩
  · exact hx.setPorts ⟨rfl, rfl, rfl, rfl, rfl, rfl, rfl, rfl, rfl⟩
  · exact hx.setPorts ⟨rfl, rfl, rfl, rfl, rfl, rfl, rfl, rfl, rfl⟩
  · exact dotFetch_legal (bgShift_legal hx) cy

theorem loadUnit_legal (h : MachLegal c m) (n e : Nat) : MachLegal c (loadUnit c n e m) := by
  have h2 := ppuRead_legal (ppuRead_legal h (spriteAddr m.ppu.ctrl (oamByte m.ppu e 1) (oamByte m.ppu e 2)
    (spriteRow m.ppu.scanline (oamByte m.ppu e 0)).toNat)) (spriteAddr m.ppu.ctrl (oamByte m.ppu e 1) (oamByte m.ppu e 2)
    (spriteRow m.ppu.scanline (oamByte m.ppu e 0)).toNat + 8)
  refine h2.setPpu (h2.ppu.drawn ⟨rfl, rfl, rfl, rfl, rfl, rfl⟩ h2.ppu.spCount ?_ h2.ppu.fb)
  rw [List.length_set]; exact h2.ppu.units

theorem setSprites_legal (h : MachLegal c m) {n : Nat} (hn : n ≤ 8) (z : Bool) : MachLegal c (setSprites n z m) :=
  h.setPpu (h.ppu.drawn ⟨rfl, rfl, rfl, rfl, rfl, rfl⟩ hn h.ppu.units h.ppu.fb)

theorem spScan_legal (es : List Nat) {n : Nat} (hn : n ≤ 8) (z : Bool) (h : MachLegal c m) :
    MachLegal c (spScan c es n z m) := by
  induction es generalizing n z m with
  | nil => exact setSprites_legal h hn z
  | cons e es ih =>
    unfold spScan
    split
    · split
      · next hl => exact ih hl _ (loadUnit_legal h n e)
      · have ho : MachLegal c (m.setPpu { m.ppu with overflow := true }) :=
          h.setPorts ⟨rfl, rfl, rfl, rfl, rfl, rfl, rfl, rfl, rfl⟩
        exact setSprites_legal ho hn z
    · exact ih hn z h

theorem dotSprites_legal (h : MachLegal c m) (s cy : Nat) (r : Bool) : MachLegal c (dotSprites c s cy r m) := by
  unfold dotSprites
  split
  · split
    · exact spScan_legal _ (Nat.zero_le _) _ h
    · exact setSprites_legal h (Nat.zero_le _) _
  · exact h

theorem dotWork_legal (hc : Adequate c) (h : MachLegal c m) : MachLegal c (dotWork c m) := by
  have h1 : MachLegal c (dotFlags m.ppu.scanline m.ppu.cycle m) :=
    MachLegal.ite (fun x hx => flagsClr_legal hx) (MachLegal.ite (fun x hx => vblSet_legal hx) h)
  have f1 := dotFlags_dotFrame m.ppu.scanline m.ppu.cycle m
  have h2 : MachLegal c (dotPixel c m.ppu.scanline m.ppu.cycle (dotFlags m.ppu.scanline m.ppu.cycle m)) := by
    unfold dotPixel
    split
    · next hp =>
      refine pixel_legal hc h1 ?_ ?_ ?_
      · rw [f1.scanline]; exact hp.1
      · rw [f1.cycle]; exact hp.2.1
      · rw [f1.cycle]; exact hp.2.2
    · exact h1
  exact dotSprites_legal (MachLegal.ite (fun x hx => dotPipeline_legal hx _ _) h2) _ _ _

/-- The position step, from every legal position (R307, R308). -/
theorem dotPosition_legal (h : MachLegal c m) : MachLegal c (dotPosition m) := by
  have hs := h.ppu.scanline
  have hcy := h.ppu.cycle
  have ho := h.ppu.odd
  have mk : ∀ s cy f, s ≤ 261 → cy ≤ 340 → (f % 2 = 1 → ¬(s = 261 ∧ cy = 340)) →
      MachLegal c (m.setPpu { m.ppu with scanline := s, cycle := cy, frame := f }) := fun s cy f a b d =>
    h.setPpu { h.ppu with scanline := a, cycle := b, odd := d }
  unfold dotPosition posSkip posAdvance
  dsimp only
  split
  · exact mk 0 0 _ (by omega) (by omega) (by omega)
  · split
    · exact mk _ _ _ hs (by omega) (by omega)
    · split
      · exact mk _ 0 _ (by omega) (by omega) (by omega)
      · exact mk 0 0 _ (by omega) (by omega) (by omega)

theorem ppuTick_legal (hc : Adequate c) (h : MachLegal c m) : MachLegal c (ppuTick c m) :=
  dotPosition_legal (dotWork_legal hc h)

/-! ## Cycles -/

theorem cpuStep_legal (hc : Adequate c) (h : MachLegal c m) (ha : m.dma.active = false) : MachLegal c (cpuStep c m) :=
  MachLegal.setCpu (MachLegal.setCore (runProg_legal hc h ha _) _) _

theorem dmaStart_legal (h : MachLegal c m) : MachLegal c (dmaStart m) :=
  h.setDma (by simp; omega) (by simp)

theorem dmaWait_legal (h : MachLegal c m) : MachLegal c (dmaWait m) :=
  h.setDma (Nat.le_trans (Nat.sub_le _ _) h.wait) h.dma

theorem dmaRead_legal (h : MachLegal c m) : MachLegal c (dmaRead c m) := by
  have h' := busRead_legal h (m.dma.page ++ m.dma.index)
  exact h'.setDma h'.wait h'.dma

theorem dmaWrite_legal (h : MachLegal c m) : MachLegal c (dmaWrite m) := by
  have h' := oamStore_legal h m.dma.latch
  unfold dmaWrite
  dsimp only
  split
  · exact h'.setDma h'.wait (by simp)
  · exact h'.setDma h'.wait h'.dma

theorem dmaCycle_legal (h : MachLegal c m) : MachLegal c (dmaCycle c m) := by
  have h1 : MachLegal c (if m.dma.request && !m.dma.active then dmaStart m else m) :=
    MachLegal.ite (fun x hx => dmaStart_legal hx) h
  unfold dmaCycle
  dsimp only
  generalize (if m.dma.request && !m.dma.active then dmaStart m else m) = m' at h1 ⊢
  split
  · exact dmaWait_legal h1
  · split
    · exact dmaRead_legal h1
    · exact dmaWrite_legal h1

theorem cpuCycle_legal (hc : Adequate c) (h : MachLegal c m) : MachLegal c (cpuCycle c m) := by
  have h1 : MachLegal c (cycleStart c m) := MachLegal.setAudio (h.setCpu _) _
  refine MachLegal.setCpu ?_ _
  unfold cycleWork
  split
  · exact h1.setCpu _
  · split
    · exact dmaCycle_legal h1
    · next hd => exact cpuStep_legal hc h1 (by simp at hd; exact hd.2)

theorem machineCycle_legal (hc : Adequate c) (h : MachLegal c m) : MachLegal c (machineCycle c m) :=
  cpuCycle_legal hc (ppuTick_legal hc (ppuTick_legal hc (ppuTick_legal hc h)))

/-! ## Host commands -/

theorem powerOn_legal (c : Cfg) : MachLegal c (Mach.powerOn c) := by
  refine ⟨?_, ?_, Nat.zero_le _, Nat.zero_le _, Nat.zero_le _, by simp [Mach.powerOn, Dma.powerOn], ?_⟩
  · constructor <;> simp [Mach.powerOn, Ppu.powerOn, Memory.wf]
  · simp [Mach.powerOn, Memory.wf]
  · intro k hk; cases hk

theorem buildCartridge_legal {h : Header} (hb : h.prgBanks ≠ 0) (image : List Byte) (mp : Mapper) :
    CartLegal c (buildCartridge h image mp) := by
  have take_below : ∀ (l : List Byte) (n : Nat), Memory.below n (Memory.ofBytes 0 (l.take n)) := by
    intro l n e he
    have := Memory.below_ofBytes (l.take n) 0 e he
    rw [List.length_take] at this
    omega
  constructor
  · have : h.prgBanks.toNat ≠ 0 := fun e => hb (BitVec.eq_of_toNat_eq (by simpa using e))
    exact Nat.pos_of_ne_zero this
  · rfl
  · exact ⟨Memory.wf_ofBytes _ _, take_below _ _⟩
  · show _ ∧ _
    unfold buildCartridge
    dsimp only
    split
    · exact ⟨Memory.wf_nil, Memory.below_nil _⟩
    · next hz =>
      have : h.chrBanks.toNat ≠ 0 := fun e => hz (BitVec.eq_of_toNat_eq (by simpa using e))
      rw [Nat.max_eq_left (by omega)]
      exact ⟨Memory.wf_ofBytes _ _, take_below _ _⟩
  · exact ⟨Memory.wf_nil, Memory.below_nil _⟩

theorem insertCart_legal (h : MachLegal c m) (image : List Byte) : MachLegal c (insertCart c image m).2 := by
  unfold insertCart fail
  dsimp only
  split
  · exact h
  · split
    · exact h
    · split
      · exact h
      · next hb =>
        split
        · exact h
        · split
          · split
            · exact h
            · exact h.setCartSome (buildCartridge_legal hb image _)
          · exact h

theorem resetClear_legal (h : MachLegal c m) : MachLegal c (resetClear c m) := by
  refine ⟨?_, h.ram, Nat.zero_le _, Nat.zero_le _, Nat.zero_le _, by simp [resetClear, Dma.powerOn], ?_⟩
  · have hr : (resetClear c m).ppu = resetPpu m.ppu := rfl
    rw [hr]
    constructor
    · simp [resetPpu, Ppu.powerOn]
    · simp [resetPpu, Ppu.powerOn]
    · simp [resetPpu, Ppu.powerOn]
    · simp [resetPpu, Ppu.powerOn]
    · simp [resetPpu, Ppu.powerOn]
    · exact h.ppu.oam
    · exact h.ppu.vram
    · exact h.ppu.palette
    · exact h.ppu.fb
  · intro k hk
    have hk : m.cart.map (resetCart c) = some k := hk
    obtain ⟨k', e, rfl⟩ := Option.map_eq_some_iff.mp hk
    exact (h.cart k' e).setMapper _

theorem warmReset_legal (hc : Adequate c) (h : MachLegal c m) : MachLegal c (warmReset c m) :=
  MachLegal.setCpu (MachLegal.setCore (runProg_legal hc (resetClear_legal h) rfl _) _) _

theorem setKey_legal (h : MachLegal c m) (code : Byte) (v : Bool) : MachLegal c (setKey code v m) := by
  unfold setKey
  split
  · exact h
  · next p b _ => exact h.setPad p (h.pad p)

end Sys2Proof.Machine
end

