-- ==== Sys2Proof/Laws/Driver.lean ====
section
/-! SUPPORT. Driver.lean: a CPU cycle, a burn cycle, and that the fuel of `burnRest` and `execLoop` is enough (log 20). -/

namespace Sys2Proof.Machine

variable {c : Cfg} {m : Mach}

/-- A DMA cycle leaves the driver's state alone. -/
theorem dmaCycle_cpu (c : Cfg) (m : Mach) : (dmaCycle c m).cpu = m.cpu := by
  unfold dmaCycle
  dsimp only
  have h1 : (if m.dma.request && !m.dma.active then dmaStart m else m).cpu = m.cpu := by
    split <;> rfl
  generalize (if m.dma.request && !m.dma.active then dmaStart m else m) = m' at h1 ⊢
  split
  · exact h1
  · split
    · exact (busRead_frame c _ m').cpu.trans h1
    · unfold dmaWrite
      dsimp only
      split <;> exact h1

theorem cycleStart_busy (c : Cfg) (m : Mach) : (cycleStart c m).cpu.busy = m.cpu.busy := rfl
theorem cycleStart_cycles (c : Cfg) (m : Mach) : (cycleStart c m).cpu.cycles = m.cpu.cycles := rfl

/-- The three kinds of work of a CPU cycle count no cycle themselves. -/
theorem cycleWork_cycles (c : Cfg) (m : Mach) : (cycleWork c m).cpu.cycles = m.cpu.cycles := by
  unfold cycleWork
  split
  · rfl
  · split
    · rw [dmaCycle_cpu]
    · show (runProg c _ m).2.cpu.cycles = _
      rw [(runProg_frame c _ m).cpu]

/-- Each CPU cycle counts once (R400). -/
theorem cpuCycle_cycles (c : Cfg) (m : Mach) : (cpuCycle c m).cpu.cycles = m.cpu.cycles + 1 := by
  show (cycleWork c (cycleStart c m)).cpu.cycles + 1 = _
  rw [cycleWork_cycles, cycleStart_cycles]

theorem machineCycle_cycles (c : Cfg) (m : Mach) : (machineCycle c m).cpu.cycles = m.cpu.cycles + 1 := by
  unfold machineCycle
  rw [cpuCycle_cycles, (ppuTick3_frame c m).cycles]

/-- A cycle that starts with cycles left to burn burns one (R381, R382). -/
theorem cpuCycle_burn (h : 0 < m.cpu.busy) : (cpuCycle c m).cpu.busy = m.cpu.busy - 1 := by
  show (cycleWork c (cycleStart c m)).cpu.busy = _
  unfold cycleWork
  rw [if_pos (by rw [cycleStart_busy]; exact h)]
  rfl

theorem machineCycle_burn (h : 0 < m.cpu.busy) : (machineCycle c m).cpu.busy = m.cpu.busy - 1 := by
  have e := (ppuTick3_frame c m).busy
  unfold machineCycle
  rw [cpuCycle_burn (by rw [e]; exact h), e]

/-- The burn cycles of a unit are enough to bring `busy` to 0 (R396). -/
theorem burnRest_busy (c : Cfg) (fuel n : Nat) (m : Mach) (h : m.cpu.busy ≤ fuel) :
    (burnRest c fuel n m).2.cpu.busy = 0 := by
  induction fuel generalizing n m with
  | zero => simpa [burnRest] using h
  | succ f ih =>
    unfold burnRest
    split
    · assumption
    · refine ih _ _ ?_
      rw [machineCycle_burn (by omega)]
      omega

/-- The burn cycles of a unit: as many as `busy` says. -/
theorem burnRest_count (c : Cfg) (fuel n : Nat) (m : Mach) (h : m.cpu.busy ≤ fuel) :
    (burnRest c fuel n m).1 = n + m.cpu.busy := by
  induction fuel generalizing n m with
  | zero => simp [burnRest]; omega
  | succ f ih =>
    unfold burnRest
    split
    · simp_all
    · have e := machineCycle_burn (c := c) (m := m) (by omega)
      rw [ih _ _ (by omega), e]
      omega

theorem burnRest_ge (c : Cfg) (fuel n : Nat) (m : Mach) : n ≤ (burnRest c fuel n m).1 := by
  induction fuel generalizing n m with
  | zero => exact Nat.le_refl _
  | succ f ih =>
    unfold burnRest
    split
    · exact Nat.le_refl _
    · exact Nat.le_trans (Nat.le_succ n) (ih _ _)

/-- A unit takes at least one machine cycle and ends with nothing to burn (R396). -/
theorem runUnit_ticks_pos (c : Cfg) (m : Mach) : 1 ≤ (runUnit c m).1 := burnRest_ge c _ 1 _

theorem runUnit_busy (c : Cfg) (m : Mach) : (runUnit c m).2.cpu.busy = 0 := by
  unfold runUnit
  apply burnRest_busy
  exact Nat.le_refl _

theorem execLoop_zero (c : Cfg) (budget ticks : Nat) (m : Mach) : execLoop c budget 0 ticks m = (ticks, m) := rfl

theorem execLoop_succ (c : Cfg) (budget fuel ticks : Nat) (m : Mach) :
    execLoop c budget (fuel + 1) ticks m =
      if ticks * 1000000 < budget then execLoop c budget fuel (ticks + (runUnit c m).1) (runUnit c m).2
      else (ticks, m) := rfl

/-- Fuel beyond what the budget needs leaves the loop of `exec` as it is. -/
theorem execLoop_reaches (c : Cfg) (budget fuel ticks : Nat) (m : Mach) (h : budget ≤ (ticks + fuel) * 1000000) :
    budget ≤ (execLoop c budget fuel ticks m).1 * 1000000 := by
  induction fuel generalizing ticks m with
  | zero => rw [execLoop_zero]; rw [Nat.add_zero] at h; exact h
  | succ f ih =>
    rw [execLoop_succ]
    split
    · have := runUnit_ticks_pos c m
      exact ih _ _ (by linarith)
    · next hb => exact Nat.le_of_not_lt hb

theorem execTime_fuel (budget : Nat) : budget ≤ (0 + (budget / 1000000 + 1)) * 1000000 := by
  have := Nat.div_add_mod budget 1000000
  have := Nat.mod_lt budget (show 1000000 > 0 by norm_num)
  linarith

end Sys2Proof.Machine
end

