-- ==== Sys2Proof/Laws/Operands.lean ====
section
/-! SUPPORT. Operands.lean: the bits of a field assignment, the bits of a number, and the low-bit masks. -/

namespace Sys2Proof.Machine

/-- A field assignment `v[lo+w-1:lo] <- f` (R9), bit by bit. -/
theorem getLsbD_setField {n w : Nat} (v : BitVec n) (lo : Nat) (f : BitVec w) (hw : lo + w ≤ n) (i : Nat) :
    (setField v lo f).getLsbD i = if lo ≤ i ∧ i < lo + w then f.getLsbD (i - lo) else v.getLsbD i := by
  unfold setField
  simp only [BitVec.getLsbD_or, BitVec.getLsbD_and, BitVec.getLsbD_not, BitVec.getLsbD_shiftLeft,
    BitVec.getLsbD_setWidth, BitVec.getLsbD_allOnes]
  by_cases h1 : i < n
  · by_cases h2 : lo ≤ i
    · by_cases h3 : i < lo + w
      · simp [h1, h2, h3, show ¬ i < lo by omega, show i - lo < n by omega, show i - lo < w by omega]
      · have hf : f.getLsbD (i - lo) = false := BitVec.getLsbD_of_ge _ _ (by omega)
        simp [h1, h2, h3, show ¬ i < lo by omega, show ¬ i - lo < w by omega, hf]
    · simp [h1, h2, show i < lo by omega]
  · have hv : v.getLsbD i = false := BitVec.getLsbD_of_ge _ _ (by omega)
    simp [h1, hv]; omega

/-- Bit `i` of a bit vector as a digit of its number. -/
theorem toNat_getLsbD {n : Nat} (v : BitVec n) (i : Nat) : (v.getLsbD i).toNat = v.toNat / 2 ^ i % 2 := by
  rw [BitVec.getLsbD, Nat.testBit_eq_decide_div_mod_eq]
  rcases Nat.mod_two_eq_zero_or_one (v.toNat / 2 ^ i) with h | h <;> simp [h]

@[simp] theorem bit2_toNat (a b : Bool) : (bit2 a b).toNat = 2 * a.toNat + b.toNat := by
  cases a <;> cases b <;> rfl

@[simp] theorem bitByte_toNat (b : Bool) : (bitByte b).toNat = b.toNat := by cases b <;> rfl

theorem addr_and_7 (a : Addr) : (a &&& 7).toNat = a.toNat % 8 := by
  rw [BitVec.toNat_and]; exact Nat.and_two_pow_sub_one_eq_mod a.toNat 3

theorem addr_and_7FF (a : Addr) : (a &&& 0x07FF).toNat = a.toNat % 2048 := by
  rw [BitVec.toNat_and]; exact Nat.and_two_pow_sub_one_eq_mod a.toNat 11

theorem ppu_and_1F (a : PpuAddr) : (a &&& 0x1F).toNat = a.toNat % 32 := by
  rw [BitVec.toNat_and]; exact Nat.and_two_pow_sub_one_eq_mod a.toNat 5

theorem byte_succ (x : Byte) : x + 1 = BitVec.ofNat 8 (x.toNat + 1) := by
  apply BitVec.eq_of_toNat_eq; simp [BitVec.toNat_add]

/-- A pattern byte after the horizontal flip, bit by bit (R299). -/
theorem getLsbD_rev8 (b : Byte) (j : Nat) (hj : j < 8) : (rev8 b).getLsbD j = b.getLsbD (7 - j) := by
  interval_cases j <;> (revert b; decide)

end Sys2Proof.Machine
end

