-- ==== Sys2Proof/Laws/PerInstr.lean ====
section
/-! SUPPORT. PerInstr.lean: the family `Encoding`: each operation's frame begins with the byte of the operation's format
(R130) and carries a selector after it. -/

namespace Sys2Proof.Laws.Encoding

/-- The format of an operation (R130), as its format byte. -/
def formatByte (i : Instr) : Byte :=
  match i with
  | .ramRd _ => fmtCpuBus
  | .ramWr _ _ => fmtCpuBus
  | .ppuRegRdOpen _ => fmtCpuBus
  | .ppuCtrlWr _ _ => fmtCpuBus
  | .ppuMaskWr _ _ => fmtCpuBus
  | .ppuStatusRd _ => fmtCpuBus
  | .ppuStatusWr _ _ => fmtCpuBus
  | .oamAddrWr _ _ => fmtCpuBus
  | .oamDataRd _ => fmtCpuBus
  | .oamDataWr _ _ => fmtCpuBus
  | .ppuScrollWr _ _ => fmtCpuBus
  | .ppuAddrWr _ _ => fmtCpuBus
  | .ppuDataRd _ => fmtCpuBus
  | .ppuDataWr _ _ => fmtCpuBus
  | .oamDmaRd => fmtCpuBus
  | .oamDmaWr _ => fmtCpuBus
  | .apuRd _ => fmtCpuBus
  | .apuWr _ _ => fmtCpuBus
  | .joy1Rd => fmtCpuBus
  | .joyStrobe _ => fmtCpuBus
  | .joy2Rd => fmtCpuBus
  | .apu4017Wr _ => fmtCpuBus
  | .ioUnmappedRd _ => fmtCpuBus
  | .ioUnmappedWr _ _ => fmtCpuBus
  | .cartRd _ => fmtCpuBus
  | .cartWr _ _ => fmtCpuBus
  | .patternRd _ => fmtPpuBus
  | .patternWr _ _ => fmtPpuBus
  | .paletteRd _ => fmtPpuBus
  | .paletteWr _ _ => fmtPpuBus
  | .nametableRd _ => fmtPpuBus
  | .nametableWr _ _ => fmtPpuBus
  | .vblSet => fmtDot
  | .flagsClr => fmtDot
  | .pixel => fmtDot
  | .bgShift => fmtDot
  | .bgFetchNt => fmtDot
  | .bgFetchAt => fmtDot
  | .bgFetchLo => fmtDot
  | .bgFetchHi => fmtDot
  | .bgReload => fmtDot
  | .vIncX => fmtDot
  | .vIncY => fmtDot
  | .vCopyX => fmtDot
  | .vCopyY => fmtDot
  | .bgDummyNt => fmtDot
  | .spLoad => fmtDot
  | .spClear => fmtDot
  | .posAdvance => fmtDot
  | .posSkip => fmtDot
  | .cpuBurn => fmtCpuCyc
  | .cpuStep => fmtCpuCyc
  | .dmaStart => fmtCpuCyc
  | .dmaWait => fmtCpuCyc
  | .dmaRead => fmtCpuCyc
  | .dmaWrite => fmtCpuCyc
  | .nromCpuRead _ => fmtMapper
  | .nromCpuWrite _ _ => fmtMapper
  | .nromPpuRead _ => fmtMapper
  | .nromPpuWrite _ _ => fmtMapper
  | .uxromCpuRead _ => fmtMapper
  | .uxromCpuWrite _ _ => fmtMapper
  | .uxromPpuRead _ => fmtMapper
  | .uxromPpuWrite _ _ => fmtMapper
  | .cnromCpuRead _ => fmtMapper
  | .cnromCpuWrite _ _ => fmtMapper
  | .cnromPpuRead _ => fmtMapper
  | .cnromPpuWrite _ _ => fmtMapper
  | .mirrorMode => fmtMapper
  | .irqPending => fmtMapper
  | .hostInit => fmtHost
  | .hostDiscard => fmtHost
  | .hostExec _ => fmtHost
  | .hostInsertCart _ => fmtHost
  | .hostRemoveCartridge => fmtHost
  | .hostReset => fmtHost
  | .hostKeyDown _ => fmtHost
  | .hostKeyUp _ => fmtHost
  | .hostPadMask => fmtHost
  | .hostDisplayInfo => fmtHost
  | .hostSaveSnapshot _ => fmtHost
  | .hostLoadSnapshot _ _ => fmtHost

/-- The frame is the format byte, then at least one selector byte. -/
def Statement (i : Instr) : Prop := ∃ b rest, encode i = formatByte i :: b :: rest

theorem ramRd (a : Addr) : Statement (.ramRd a) := ⟨_, _, rfl⟩
theorem ramWr (a : Addr) (d : Byte) : Statement (.ramWr a d) := ⟨_, _, rfl⟩
theorem ppuRegRdOpen (a : Addr) : Statement (.ppuRegRdOpen a) := ⟨_, _, rfl⟩
theorem ppuCtrlWr (a : Addr) (d : Byte) : Statement (.ppuCtrlWr a d) := ⟨_, _, rfl⟩
theorem ppuMaskWr (a : Addr) (d : Byte) : Statement (.ppuMaskWr a d) := ⟨_, _, rfl⟩
theorem ppuStatusRd (a : Addr) : Statement (.ppuStatusRd a) := ⟨_, _, rfl⟩
theorem ppuStatusWr (a : Addr) (d : Byte) : Statement (.ppuStatusWr a d) := ⟨_, _, rfl⟩
theorem oamAddrWr (a : Addr) (d : Byte) : Statement (.oamAddrWr a d) := ⟨_, _, rfl⟩
theorem oamDataRd (a : Addr) : Statement (.oamDataRd a) := ⟨_, _, rfl⟩
theorem oamDataWr (a : Addr) (d : Byte) : Statement (.oamDataWr a d) := ⟨_, _, rfl⟩
theorem ppuScrollWr (a : Addr) (d : Byte) : Statement (.ppuScrollWr a d) := ⟨_, _, rfl⟩
theorem ppuAddrWr (a : Addr) (d : Byte) : Statement (.ppuAddrWr a d) := ⟨_, _, rfl⟩
theorem ppuDataRd (a : Addr) : Statement (.ppuDataRd a) := ⟨_, _, rfl⟩
theorem ppuDataWr (a : Addr) (d : Byte) : Statement (.ppuDataWr a d) := ⟨_, _, rfl⟩
theorem oamDmaRd : Statement .oamDmaRd := ⟨_, _, rfl⟩
theorem oamDmaWr (d : Byte) : Statement (.oamDmaWr d) := ⟨_, _, rfl⟩
theorem apuRd (a : Addr) : Statement (.apuRd a) := ⟨_, _, rfl⟩
theorem apuWr (a : Addr) (d : Byte) : Statement (.apuWr a d) := ⟨_, _, rfl⟩
theorem joy1Rd : Statement .joy1Rd := ⟨_, _, rfl⟩
theorem joyStrobe (d : Byte) : Statement (.joyStrobe d) := ⟨_, _, rfl⟩
theorem joy2Rd : Statement .joy2Rd := ⟨_, _, rfl⟩
theorem apu4017Wr (d : Byte) : Statement (.apu4017Wr d) := ⟨_, _, rfl⟩
theorem ioUnmappedRd (a : Addr) : Statement (.ioUnmappedRd a) := ⟨_, _, rfl⟩
theorem ioUnmappedWr (a : Addr) (d : Byte) : Statement (.ioUnmappedWr a d) := ⟨_, _, rfl⟩
theorem cartRd (a : Addr) : Statement (.cartRd a) := ⟨_, _, rfl⟩
theorem cartWr (a : Addr) (d : Byte) : Statement (.cartWr a d) := ⟨_, _, rfl⟩
theorem patternRd (a : PpuAddr) : Statement (.patternRd a) := ⟨_, _, rfl⟩
theorem patternWr (a : PpuAddr) (d : Byte) : Statement (.patternWr a d) := ⟨_, _, rfl⟩
theorem paletteRd (a : PpuAddr) : Statement (.paletteRd a) := ⟨_, _, rfl⟩
theorem paletteWr (a : PpuAddr) (d : Byte) : Statement (.paletteWr a d) := ⟨_, _, rfl⟩
theorem nametableRd (a : PpuAddr) : Statement (.nametableRd a) := ⟨_, _, rfl⟩
theorem nametableWr (a : PpuAddr) (d : Byte) : Statement (.nametableWr a d) := ⟨_, _, rfl⟩
theorem vblSet : Statement .vblSet := ⟨_, _, rfl⟩
theorem flagsClr : Statement .flagsClr := ⟨_, _, rfl⟩
theorem pixel : Statement .pixel := ⟨_, _, rfl⟩
theorem bgShift : Statement .bgShift := ⟨_, _, rfl⟩
theorem bgFetchNt : Statement .bgFetchNt := ⟨_, _, rfl⟩
theorem bgFetchAt : Statement .bgFetchAt := ⟨_, _, rfl⟩
theorem bgFetchLo : Statement .bgFetchLo := ⟨_, _, rfl⟩
theorem bgFetchHi : Statement .bgFetchHi := ⟨_, _, rfl⟩
theorem bgReload : Statement .bgReload := ⟨_, _, rfl⟩
theorem vIncX : Statement .vIncX := ⟨_, _, rfl⟩
theorem vIncY : Statement .vIncY := ⟨_, _, rfl⟩
theorem vCopyX : Statement .vCopyX := ⟨_, _, rfl⟩
theorem vCopyY : Statement .vCopyY := ⟨_, _, rfl⟩
theorem bgDummyNt : Statement .bgDummyNt := ⟨_, _, rfl⟩
theorem spLoad : Statement .spLoad := ⟨_, _, rfl⟩
theorem spClear : Statement .spClear := ⟨_, _, rfl⟩
theorem posAdvance : Statement .posAdvance := ⟨_, _, rfl⟩
theorem posSkip : Statement .posSkip := ⟨_, _, rfl⟩
theorem cpuBurn : Statement .cpuBurn := ⟨_, _, rfl⟩
theorem cpuStep : Statement .cpuStep := ⟨_, _, rfl⟩
theorem dmaStart : Statement .dmaStart := ⟨_, _, rfl⟩
theorem dmaWait : Statement .dmaWait := ⟨_, _, rfl⟩
theorem dmaRead : Statement .dmaRead := ⟨_, _, rfl⟩
theorem dmaWrite : Statement .dmaWrite := ⟨_, _, rfl⟩
theorem nromCpuRead (a : Addr) : Statement (.nromCpuRead a) := ⟨_, _, rfl⟩
theorem nromCpuWrite (a : Addr) (d : Byte) : Statement (.nromCpuWrite a d) := ⟨_, _, rfl⟩
theorem nromPpuRead (a : PpuAddr) : Statement (.nromPpuRead a) := ⟨_, _, rfl⟩
theorem nromPpuWrite (a : PpuAddr) (d : Byte) : Statement (.nromPpuWrite a d) := ⟨_, _, rfl⟩
theorem uxromCpuRead (a : Addr) : Statement (.uxromCpuRead a) := ⟨_, _, rfl⟩
theorem uxromCpuWrite (a : Addr) (d : Byte) : Statement (.uxromCpuWrite a d) := ⟨_, _, rfl⟩
theorem uxromPpuRead (a : PpuAddr) : Statement (.uxromPpuRead a) := ⟨_, _, rfl⟩
theorem uxromPpuWrite (a : PpuAddr) (d : Byte) : Statement (.uxromPpuWrite a d) := ⟨_, _, rfl⟩
theorem cnromCpuRead (a : Addr) : Statement (.cnromCpuRead a) := ⟨_, _, rfl⟩
theorem cnromCpuWrite (a : Addr) (d : Byte) : Statement (.cnromCpuWrite a d) := ⟨_, _, rfl⟩
theorem cnromPpuRead (a : PpuAddr) : Statement (.cnromPpuRead a) := ⟨_, _, rfl⟩
theorem cnromPpuWrite (a : PpuAddr) (d : Byte) : Statement (.cnromPpuWrite a d) := ⟨_, _, rfl⟩
theorem mirrorMode : Statement .mirrorMode := ⟨_, _, rfl⟩
theorem irqPending : Statement .irqPending := ⟨_, _, rfl⟩
theorem hostInit : Statement .hostInit := ⟨_, _, rfl⟩
theorem hostDiscard : Statement .hostDiscard := ⟨_, _, rfl⟩
theorem hostExec (microseconds : Nat) : Statement (.hostExec microseconds) := ⟨_, _, rfl⟩
theorem hostInsertCart (image : List Byte) : Statement (.hostInsertCart image) := ⟨_, _, rfl⟩
theorem hostRemoveCartridge : Statement .hostRemoveCartridge := ⟨_, _, rfl⟩
theorem hostReset : Statement .hostReset := ⟨_, _, rfl⟩
theorem hostKeyDown (code : Byte) : Statement (.hostKeyDown code) := ⟨_, _, rfl⟩
theorem hostKeyUp (code : Byte) : Statement (.hostKeyUp code) := ⟨_, _, rfl⟩
theorem hostPadMask : Statement .hostPadMask := ⟨_, _, rfl⟩
theorem hostDisplayInfo : Statement .hostDisplayInfo := ⟨_, _, rfl⟩
theorem hostSaveSnapshot (slot : Byte) : Statement (.hostSaveSnapshot slot) := ⟨_, _, rfl⟩
theorem hostLoadSnapshot (version : Nat) (slot : Byte) : Statement (.hostLoadSnapshot version slot) := ⟨_, _, rfl⟩

end Sys2Proof.Laws.Encoding
end

