-- ==== Sys2Proof/Tests/Slice0.lean ====
section
/-! SUPPORT. Slice0.lean: the WellFormed smoke tests, the decoding of words written out from the spec's encodings, small
tests of single operations with the spec's own example values, and a witness for each statement that has hypotheses. -/

namespace Sys2Proof.Tests

open Sys2Proof.Machine

/-! ## Helpers -/

/-- The next state of an outcome. -/
def nextOf (o : Host.Outcome State Fault Refusal) : Option State :=
  match o with
  | .next s => some s
  | .fault _ => none
  | .refused _ => none

/-- One operation, and a view of the state after it. -/
def see {α : Type} (i : Instr) (s : State) (f : State → α) : Option α := (nextOf (exec i s)).map f

/-- A Machine with plain values where power-on has parameters. -/
def mach : Mach :=
  { core := [], cpu := { busy := 0, nmiPending := false, irqLine := false, cycles := 0 }, dma := Dma.powerOn
    bus := { ram := [], openBus := 0x12 }, ppu := Ppu.powerOn, cart := none, pad0 := Pad.powerOn, pad1 := Pad.powerOn
    audio := [] }

/-- A state around a Machine. -/
def st (m : Mach) : State := { machine := m, alive := true, snapshots := [], result := .none, requests := [], bench := none }

/-- A picture generator in a state. -/
def sp (p : Ppu) : State := st { mach with ppu := p }

/-- A header. -/
def hdr (id prg chr : Byte) : Header :=
  { mapperId := id, prgBanks := prg, chrBanks := chr, mirroring := .vertical, battery := false, trainer := false
    fourScreen := false }

/-- A cartridge with one marked byte in program ROM and one in graphics memory. -/
def cart (mp : Mapper) (prg chr : Byte) (p g : Nat × Byte) : Cartridge :=
  { header := hdr 0 prg chr, prgRom := [p], chr := [g], chrIsRam := chr == 0, prgRam := [], mapper := mp }

/-- A state with a cartridge. -/
def withCart (k : Cartridge) : State := st { mach with cart := some k }

/-- A configuration with known values: a core whose entries take seven cycles and whose instructions take two, with
interrupts masked where its state is empty, and a silent audio device. -/
def cfg0 : Cfg :=
  { snapshotVersion := 1, paletteRgb := fun _ => 0
    core := { powerOn := [], nmiEntry := fun s _ => .done s 6, irqPermitted := fun s => s != []
              irqEntry := fun _ _ => .done [] 6, instruction := fun s _ => .done s 1, reset := fun _ => .done [] 6 }
    audio := { powerOn := [], reset := id, read := fun a _ o => (o, a), write := fun a _ _ => a, tick := id
               irq := fun _ => false } }

/-- A variant that maps nothing, with or without its two optional capabilities. -/
def variant (f : Option (Opaque → MirrorMode)) (g : Option (Opaque → Bool)) : VariantSpec :=
  { init := [], cpuRead := fun _ _ => (none, []), cpuWrite := fun _ _ _ => ([], []), ppuRead := fun _ _ => (none, [])
    ppuWrite := fun _ _ _ => ([], []), irqPending := g, mirroring := f }

/-! ## WellFormed: an ill-formed term for each check -/

theorem test_wf_refuses_outside_ram : (Instr.ramRd 0x2000).wellFormed = false ∧ (Instr.ramWr 0x2000 0).wellFormed = false := by
  decide
theorem test_wf_refuses_wrong_port :
    (Instr.ppuRegRdOpen 0x2002).wellFormed = false ∧ (Instr.ppuCtrlWr 0x2001 0).wellFormed = false ∧
    (Instr.ppuMaskWr 0x2000 0).wellFormed = false ∧ (Instr.ppuStatusRd 0x2003).wellFormed = false ∧
    (Instr.ppuStatusWr 0x4002 0).wellFormed = false ∧ (Instr.oamAddrWr 0x1003 0).wellFormed = false ∧
    (Instr.oamDataRd 0x2005).wellFormed = false ∧ (Instr.oamDataWr 0x2003 0).wellFormed = false ∧
    (Instr.ppuScrollWr 0x2006 0).wellFormed = false ∧ (Instr.ppuAddrWr 0x2005 0).wellFormed = false ∧
    (Instr.ppuDataRd 0x4007).wellFormed = false ∧ (Instr.ppuDataWr 0x2000 0).wellFormed = false := by decide
theorem test_wf_refuses_non_audio_ports :
    (Instr.apuRd 0x4014).wellFormed = false ∧ (Instr.apuWr 0x4016 0).wellFormed = false ∧
    (Instr.apuRd 0x3FFF).wellFormed = false := by decide
theorem test_wf_refuses_mapped_io :
    (Instr.ioUnmappedRd 0x4017).wellFormed = false ∧ (Instr.ioUnmappedWr 0x4020 0).wellFormed = false := by decide
theorem test_wf_refuses_below_cartridge :
    (Instr.cartRd 0x401F).wellFormed = false ∧ (Instr.cartWr 0x4000 0).wellFormed = false := by decide
theorem test_wf_refuses_outside_pattern_tables :
    (Instr.patternRd 0x2000).wellFormed = false ∧ (Instr.patternWr 0x3F00 0).wellFormed = false := by decide
theorem test_wf_refuses_wrong_ppu_region :
    (Instr.paletteRd 0x3EFF).wellFormed = false ∧ (Instr.paletteWr 0x3EFF 0).wellFormed = false ∧
    (Instr.nametableRd 0x3F00).wellFormed = false ∧ (Instr.nametableWr 0x1FFF 0).wellFormed = false := by decide

/-! ## Decoding: words written out bit by bit -/

/-- CPUBUS reads (R131, R136): `dir` 0, then the 16 address bits. -/
theorem test_decode_cpubus_reads :
    decodeTableWord 24 0b0_0001_1000_0000_0010 = some (.ramRd 0x1802) ∧
    decodeTableWord 24 0b0_0010_0000_0000_0101 = some (.ppuRegRdOpen 0x2005) ∧
    decodeTableWord 24 0b0_0011_1111_1111_1010 = some (.ppuStatusRd 0x3FFA) ∧
    decodeTableWord 24 0b0_0010_0000_0000_0100 = some (.oamDataRd 0x2004) ∧
    decodeTableWord 24 0b0_0010_0000_0000_1111 = some (.ppuDataRd 0x200F) ∧
    decodeTableWord 24 0b0_0100_0000_0001_0100 = some .oamDmaRd ∧
    decodeTableWord 24 0b0_0100_0000_0001_0101 = some (.apuRd 0x4015) ∧
    decodeTableWord 24 0b0_0100_0000_0001_0011 = some (.apuRd 0x4013) ∧
    decodeTableWord 24 0b0_0100_0000_0001_0110 = some .joy1Rd ∧
    decodeTableWord 24 0b0_0100_0000_0001_0111 = some .joy2Rd ∧
    decodeTableWord 24 0b0_0100_0000_0001_1111 = some (.ioUnmappedRd 0x401F) ∧
    decodeTableWord 24 0b0_0100_0000_0010_0000 = some (.cartRd 0x4020) := by decide

/-- CPUBUS writes: `dir` 1. -/
theorem test_decode_cpubus_writes :
    decodeTableWord 24 0b1_0001_1111_1111_1111 = some (.ramWr 0x1FFF 0) ∧
    decodeTableWord 24 0b1_0010_0000_0000_1000 = some (.ppuCtrlWr 0x2008 0) ∧
    decodeTableWord 24 0b1_0010_0000_0000_0001 = some (.ppuMaskWr 0x2001 0) ∧
    decodeTableWord 24 0b1_0010_0000_0000_0010 = some (.ppuStatusWr 0x2002 0) ∧
    decodeTableWord 24 0b1_0010_0000_0000_0011 = some (.oamAddrWr 0x2003 0) ∧
    decodeTableWord 24 0b1_0010_0000_0000_0100 = some (.oamDataWr 0x2004 0) ∧
    decodeTableWord 24 0b1_0010_0000_0000_0101 = some (.ppuScrollWr 0x2005 0) ∧
    decodeTableWord 24 0b1_0010_0000_0000_0110 = some (.ppuAddrWr 0x2006 0) ∧
    decodeTableWord 24 0b1_0011_1111_1111_1111 = some (.ppuDataWr 0x3FFF 0) ∧
    decodeTableWord 24 0b1_0100_0000_0001_0100 = some (.oamDmaWr 0) ∧
    decodeTableWord 24 0b1_0100_0000_0000_1111 = some (.apuWr 0x400F 0) ∧
    decodeTableWord 24 0b1_0100_0000_0001_0110 = some (.joyStrobe 0) ∧
    decodeTableWord 24 0b1_0100_0000_0001_0111 = some (.apu4017Wr 0) ∧
    decodeTableWord 24 0b1_0100_0000_0001_1000 = some (.ioUnmappedWr 0x4018 0) ∧
    decodeTableWord 24 0b1_1000_0000_0000_0000 = some (.cartWr 0x8000 0) := by decide

/-- PPUBUS words (R132, R137): `dir`, then the 14 address bits. -/
theorem test_decode_ppubus :
    decodeTableWord 16 0b0_00_0000_0001_0000 = some (.patternRd 0x0010) ∧
    decodeTableWord 16 0b1_01_1111_1111_1111 = some (.patternWr 0x1FFF 0) ∧
    decodeTableWord 16 0b0_11_1111_0010_0001 = some (.paletteRd 0x3F21) ∧
    decodeTableWord 16 0b1_11_1111_0001_0000 = some (.paletteWr 0x3F10 0) ∧
    decodeTableWord 16 0b0_11_1110_1111_1111 = some (.nametableRd 0x3EFF) ∧
    decodeTableWord 16 0b1_10_0000_0000_0101 = some (.nametableWr 0x2005 0) := by decide

/-- The instruction a frame decodes to. -/
def decodes (f : List Byte) : Option Instr :=
  match decode f with
  | .ok i => some i
  | .error _ => none

/-- A write frame's data byte is the operand after the selector (R131). -/
theorem test_decode_data_byte :
    decodes [0, 0x02, 0x00, 1, 0x5A] = some (.ramWr 0x0002 0x5A) ∧
    decodes [1, 0x10, 0x7F, 0xFF] = some (.paletteWr 0x3F10 0xFF) := by decide

/-- DOT and CPUCYC operations, in the order of the table (log 4). -/
theorem test_decode_dot_and_cycle :
    (List.range 18).map (fun b => decodes [2, BitVec.ofNat 8 b]) =
      [.vblSet, .flagsClr, .pixel, .bgShift, .bgFetchNt, .bgFetchAt, .bgFetchLo, .bgFetchHi, .bgReload, .vIncX, .vIncY,
       .vCopyX, .vCopyY, .bgDummyNt, .spLoad, .spClear, .posAdvance, .posSkip].map some ∧
    (List.range 6).map (fun b => decodes [3, BitVec.ofNat 8 b]) =
      [.cpuBurn, .cpuStep, .dmaStart, .dmaWait, .dmaRead, .dmaWrite].map some := by decide

/-- MAPPER operations (R135; log 4). -/
theorem test_decode_mapper :
    decodes [4, 0, 0xFC, 0xFF] = some (.nromCpuRead 0xFFFC) ∧
    decodes [4, 1, 0x00, 0x60, 7] = some (.nromCpuWrite 0x6000 7) ∧
    decodes [4, 2, 0xFF, 0x1F] = some (.nromPpuRead 0x1FFF) ∧ decodes [4, 3, 0x00, 0x00, 7] = some (.nromPpuWrite 0 7) ∧
    decodes [4, 4, 0x00, 0x80] = some (.uxromCpuRead 0x8000) ∧
    decodes [4, 5, 0x23, 0xC1, 0x0A] = some (.uxromCpuWrite 0xC123 0x0A) ∧
    decodes [4, 6, 0x01, 0x00] = some (.uxromPpuRead 1) ∧ decodes [4, 7, 0x01, 0x00, 7] = some (.uxromPpuWrite 1 7) ∧
    decodes [4, 8, 0x00, 0x80] = some (.cnromCpuRead 0x8000) ∧
    decodes [4, 9, 0x00, 0x80, 1] = some (.cnromCpuWrite 0x8000 1) ∧
    decodes [4, 10, 0x10, 0x00] = some (.cnromPpuRead 0x10) ∧ decodes [4, 11, 0x10, 0x00, 7] = some (.cnromPpuWrite 0x10 7) ∧
    decodes [4, 12] = some .mirrorMode ∧ decodes [4, 13] = some .irqPending := by decide

/-- HOST ordinals (R134) with their operands (log 4). -/
theorem test_decode_host :
    decodeTableWord 8 0 = some .hostInit ∧ decodeTableWord 8 1 = some .hostDiscard ∧
    decodes [5, 2, 0x1B, 0x41] = some (.hostExec 16667) ∧ decodes [5, 3, 0x4E, 0x45] = some (.hostInsertCart [0x4E, 0x45]) ∧
    decodeTableWord 8 4 = some .hostRemoveCartridge ∧ decodeTableWord 8 5 = some .hostReset ∧
    decodes [5, 6, 3] = some (.hostKeyDown 3) ∧ decodes [5, 7, 3] = some (.hostKeyUp 3) ∧
    decodeTableWord 8 8 = some .hostPadMask ∧ decodeTableWord 8 9 = some .hostDisplayInfo ∧
    decodes [5, 10, 4] = some (.hostSaveSnapshot 4) ∧ decodes [5, 11, 4, 2, 1] = some (.hostLoadSnapshot 258 4) := by decide

/-- Frames that encode nothing are refused. -/
theorem test_decode_refusals :
    decodes [] = none ∧ decodes [6] = none ∧ decodes [0, 0, 0] = none ∧ decodes [0, 0, 0, 2] = none ∧
    decodes [0, 0, 0, 0, 0] = none ∧ decodes [1, 0, 0x80] = none ∧ decodes [2, 18] = none ∧ decodes [3, 6] = none ∧
    decodes [4, 14] = none ∧ decodes [4, 0, 0] = none ∧ decodes [4, 2, 0, 0x40] = none ∧ decodes [5, 12] = none := by
  decide

/-- A capability takes every address of its space (R135). -/
theorem test_decode_capability_any_address :
    decodes [4, 0, 0, 0] = some (.nromCpuRead 0) ∧ decodes [4, 2, 0xFF, 0x3F] = some (.nromPpuRead 0x3FFF) := by decide

/-! ## Single operations; the values are the spec's examples at the rules named -/

theorem test_ramRd_mirror : see (.ramRd 0x1802) (st { mach with bus := { ram := [(2, 0x5A)], openBus := 0 } }) (·.result) =
    some (.byte 0x5A) := by decide  -- R183
theorem test_ramWr_mirror : see (.ramWr 0x1FFF 0x77) (st mach) (fun s => (s.machine.bus.ram, s.machine.bus.openBus)) =
    some ([(0x7FF, 0x77)], 0x77) := by decide  -- R184
theorem test_openBus_reads : see (.ppuRegRdOpen 0x2000) (st mach) (·.result) = some (.byte 0x12) ∧
    see .oamDmaRd (st mach) (·.result) = some (.byte 0x12) ∧
    see (.ioUnmappedRd 0x4018) (st mach) (·.result) = some (.byte 0x12) ∧
    see (.cartRd 0x8000) (st mach) (·.result) = some (.byte 0x12) := by decide  -- R242, R192, R193, R201
theorem test_ppuCtrlWr : see (.ppuCtrlWr 0x2000 0x83) (st mach) (fun s => (s.machine.ppu.ctrl, s.machine.ppu.t)) =
    some (0x83, 0x0C00) := by decide  -- R231
theorem test_ppuMaskWr : see (.ppuMaskWr 0x2001 0x1E) (st mach) (·.machine.ppu.mask) = some 0x1E := by decide  -- R232
theorem test_ppuStatusRd : see (.ppuStatusRd 0x2002)
    (sp { Ppu.powerOn with vblank := true, sprite0Hit := true, w := true })
    (fun s => (s.result, s.machine.ppu.vblank, s.machine.ppu.sprite0Hit, s.machine.ppu.w)) =
    some (.byte 0xC0, false, true, false) := by decide  -- R233
theorem test_ignored_writes : see (.ppuStatusWr 0x2002 0xFF) (sp { Ppu.powerOn with w := true }) (·.machine.ppu.w) = some true ∧
    see (.ioUnmappedWr 0x4018 0x34) (st mach) (·.machine.bus.openBus) = some 0x34 ∧
    see (.cartWr 0x8000 0x34) (st mach) (·.machine.cart) = some none := by decide  -- R234, R194, R202
theorem test_oamAddrWr : see (.oamAddrWr 0x2003 0x10) (st mach) (·.machine.ppu.oamAddr) = some 0x10 := by decide  -- R235
theorem test_oamDataRd : see (.oamDataRd 0x2004) (sp { Ppu.powerOn with oam := [(4, 0x21)], oamAddr := 4 })
    (fun s => (s.result, s.machine.ppu.oamAddr)) = some (.byte 0x21, 5) := by decide  -- R236
theorem test_oamDataWr_wraps : see (.oamDataWr 0x2004 0x07) (sp { Ppu.powerOn with oamAddr := 0xFF })
    (fun s => (s.machine.ppu.oam, s.machine.ppu.oamAddr)) = some ([(255, 0x07)], 0) := by decide  -- R237
theorem test_ppuScrollWr_first : see (.ppuScrollWr 0x2005 0x7D) (st mach)
    (fun s => (s.machine.ppu.t, s.machine.ppu.x, s.machine.ppu.w)) = some (0x000F, 5, true) := by decide  -- R238
theorem test_ppuScrollWr_second : see (.ppuScrollWr 0x2005 0x5E) (sp { Ppu.powerOn with t := 0x000F, w := true })
    (fun s => (s.machine.ppu.t, s.machine.ppu.w)) = some (0x616F, false) := by decide  -- R238
theorem test_ppuAddrWr_second : see (.ppuAddrWr 0x2006 0x10) (sp { Ppu.powerOn with t := 0x3F00, w := true })
    (fun s => (s.machine.ppu.v, s.machine.ppu.t)) = some (0x3F10, 0x3F10) := by decide  -- R239
theorem test_ppuDataRd_buffered : see (.ppuDataRd 0x2007)
    (sp { Ppu.powerOn with vram := [(0, 0xAB), (1, 0xCD)], v := 0x2000 })
    (fun s => (s.result, s.machine.ppu.readBuffer, s.machine.ppu.v)) = some (.byte 0, 0xAB, 0x2001) := by decide  -- R240
theorem test_ppuDataRd_wraps : see (.ppuDataRd 0x2007) (sp { Ppu.powerOn with v := 0x7FFF }) (·.machine.ppu.v) =
    some 0 := by decide  -- R243
theorem test_ppuDataWr : see (.ppuDataWr 0x2007 0x0F) (sp { Ppu.powerOn with v := 0x3F00 })
    (fun s => (s.machine.ppu.palette, s.machine.ppu.v)) = some ([(0, 0x0F)], 0x3F01) := by decide  -- R241
theorem test_oamDmaWr : see (.oamDmaWr 0x02) (st mach) (fun s => (s.machine.dma.request, s.machine.dma.page)) =
    some (true, 0x02) := by decide  -- R191
theorem test_joyStrobe : see (.joyStrobe 1) (st { mach with pad0 := { Pad.powerOn with live := 0x09, index := 3 } })
    (fun s => (s.machine.pad0.snapshot, s.machine.pad0.index, s.machine.pad1.strobe)) = some (0x09, 0, true) := by
  decide  -- R197
theorem test_joy1Rd : see .joy1Rd (st { mach with pad0 := { Pad.powerOn with snapshot := 0x09, index := 3 } })
    (fun s => (s.result, s.machine.pad0.index)) = some (.byte 1, 4) := by decide  -- R198
theorem test_joy2Rd_after_eight : see .joy2Rd (st { mach with pad1 := { Pad.powerOn with index := 8 } })
    (fun s => (s.result, s.machine.pad1.index)) = some (.byte 1, 8) := by decide  -- R199
theorem test_pattern : see (.patternRd 0x0010) (st mach) (·.result) = some (.byte 0) ∧
    see (.patternWr 0x0010 0xFF) (withCart (cart .nrom 1 0 (0, 1) (5, 1))) (fun s => s.machine.cart.map (·.chr)) =
      some (some [(5, 1), (0x10, 0xFF)]) := by decide  -- R252
theorem test_paletteRd : see (.paletteRd 0x3F21) (sp { Ppu.powerOn with palette := [(1, 0x2A)] }) (·.result) =
    some (.byte 0x2A) := by decide  -- R254
theorem test_paletteWr_backdrop : see (.paletteWr 0x3F10 0xFF) (st mach) (·.machine.ppu.palette) = some [(0, 0x3F)] := by
  decide  -- R255
theorem test_nametableWr_horizontal : see (.nametableWr 0x2C05 0x42) (st mach) (·.machine.ppu.vram) =
    some [(0x0405, 0x42)] := by decide  -- R257
theorem test_nametableRd_vertical : see (.nametableRd 0x3005)
    (st { mach with cart := some (cart .nrom 1 0 (0, 1) (0, 1)), ppu := { Ppu.powerOn with vram := [(5, 0x42)] } })
    (·.result) = some (.byte 0x42) := by decide  -- R253
theorem test_vblSet : see .vblSet (sp { Ppu.powerOn with ctrl := 0x80 })
    (fun s => (s.machine.ppu.vblank, s.machine.cpu.nmiPending)) = some (true, true) := by decide  -- R305
theorem test_flagsClr : see .flagsClr (sp { Ppu.powerOn with vblank := true, sprite0Hit := true, overflow := true })
    (fun s => statusByte s.machine.ppu) = some 0 := by decide  -- R306
theorem test_pixel_background : see .pixel (sp { Ppu.powerOn with
      mask := 0x0A, bgHi := 0x8000, atLo := 0x8000, cycle := 1, palette := [(6, 0x16)] })
    (·.machine.ppu.fb) = some [(0, 0x16)] := by decide  -- R273, R275: bgp 2, bgs 1 shows palette[6]
theorem test_pixel_sprite_hit : see .pixel (sp { Ppu.powerOn with
      mask := 0x1F, bgLo := 0x8000, cycle := 11, scanline := 1, spCount := 1, spZero := true
      sp := [{ x := 10, attr := 0, lo := 0x80, hi := 0 }], palette := [(0x11, 0x16)] })
    (fun s => (s.machine.ppu.fb, s.machine.ppu.sprite0Hit)) = some ([(266, 0x10)], true) := by decide  -- R274 to R277
theorem test_bgShift : see .bgShift (sp { Ppu.powerOn with bgLo := 0x8001 }) (·.machine.ppu.bgLo) = some 2 := by decide  -- R278
theorem test_bgFetchNt : see .bgFetchNt (sp { Ppu.powerOn with v := 0x0021, vram := [(0x21, 7)] }) (·.machine.ppu.ntByte) =
    some 7 := by decide  -- R279
theorem test_bgFetchAt : see .bgFetchAt (sp { Ppu.powerOn with v := 0x0042, vram := [(0x3C0, 0xC0)] }) (·.machine.ppu.atBits) =
    some 3 := by decide  -- R280
theorem test_bgFetchLo : see .bgFetchLo (st { mach with
      cart := some (cart .nrom 1 0 (0, 1) (0x1243, 9)), ppu := { Ppu.powerOn with ctrl := 0x10, ntByte := 0x24, v := 0x3000 } })
    (·.machine.ppu.ptLo) = some 9 := by decide  -- R281
theorem test_bgFetchHi : see .bgFetchHi (st { mach with
      cart := some (cart .nrom 1 0 (0, 1) (0x124B, 9)), ppu := { Ppu.powerOn with ctrl := 0x10, ntByte := 0x24, v := 0x3000 } })
    (·.machine.ppu.ptHi) = some 9 := by decide  -- R282
theorem test_bgReload : see .bgReload (sp { Ppu.powerOn with ptLo := 0xFF, bgLo := 0x1200, atBits := 2 })
    (fun s => (s.machine.ppu.bgLo, s.machine.ppu.atLo, s.machine.ppu.atHi)) = some (0x12FF, 0, 0xFF) := by decide  -- R283
theorem test_vIncX : see .vIncX (sp { Ppu.powerOn with v := 0x001F }) (·.machine.ppu.v) = some 0x0400 := by decide  -- R284
theorem test_vIncY : see .vIncY (sp { Ppu.powerOn with v := 0x73A0 }) (·.machine.ppu.v) = some 0x0800 := by decide  -- R285
theorem test_vCopyX : see .vCopyX (sp { Ppu.powerOn with v := 0x0C1F, t := 0x0003 }) (·.machine.ppu.v) = some 0x0803 := by
  decide  -- R286
theorem test_vCopyY : see .vCopyY (sp { Ppu.powerOn with v := 0x0005, t := 0x2BA0 }) (·.machine.ppu.v) = some 0x2BA5 := by
  decide  -- R287
theorem test_bgDummyNt : see .bgDummyNt (sp { Ppu.powerOn with v := 0x0021, vram := [(0x21, 7)] }) (·.machine.ppu.ntByte) =
    some 7 := by decide  -- R288
theorem test_posAdvance : see .posAdvance (sp { Ppu.powerOn with scanline := 100, cycle := 340 })
    (fun s => (s.machine.ppu.scanline, s.machine.ppu.cycle)) = some (101, 0) := by decide  -- R307
theorem test_posSkip : see .posSkip (sp { Ppu.powerOn with scanline := 261, cycle := 339, frame := 1 })
    (fun s => (s.machine.ppu.scanline, s.machine.ppu.cycle, s.machine.ppu.frame)) = some (0, 0, 2) := by decide  -- R308
theorem test_spClear : see .spClear (sp { Ppu.powerOn with spCount := 3, spZero := true })
    (fun s => (s.machine.ppu.spCount, s.machine.ppu.spZero)) = some (0, false) := by decide  -- R300
theorem test_spriteAddr : spriteAddr 0x20 0x03 0 9 = 0x1031 ∧ spriteAddr 0 1 0 0 = 0x0010 ∧ rev8 0x80 = 0x01 := by
  decide  -- R298, R299

/-- OAM with entry 0 at row 7 and every other entry out of range. -/
def oneSprite : Ppu :=
  { Ppu.powerOn with
    scanline := 7
    oam := (0, 7) :: (1, 1) :: (3, 10) :: (List.range 63).map (fun e => (4 * (e + 1), (0xFF : Byte))) }

theorem test_spLoad : see .spLoad (st { mach with
      cart := some (cart .nrom 1 0 (0, 1) (0x10, 0x80)), ppu := oneSprite })
    (fun s => (s.machine.ppu.spCount, s.machine.ppu.spZero, s.machine.ppu.sp[0]?)) =
    some (1, true, some { x := 10, attr := 0, lo := 0x80, hi := 0 }) := by decide +kernel  -- R296 to R300
theorem test_cpuBurn : see .cpuBurn (st { mach with cpu := { mach.cpu with busy := 3 } }) (·.machine.cpu.busy) = some 2 := by
  decide  -- R382
theorem test_dmaStart_odd : see .dmaStart (st { mach with cpu := { mach.cpu with cycles := 1001 } })
    (fun s => (s.machine.dma.wait, s.machine.dma.active)) = some (2, true) := by decide  -- R389
theorem test_dmaWait : see .dmaWait (st { mach with dma := { Dma.powerOn with wait := 2 } }) (·.machine.dma.wait) = some 1 := by
  decide  -- R390
theorem test_dmaRead : see .dmaRead (st { mach with
      bus := { ram := [(0x210, 0x99)], openBus := 0 }, dma := { Dma.powerOn with page := 0x02, index := 0x10 } })
    (fun s => (s.machine.dma.latch, s.machine.dma.phase, s.machine.bus.openBus)) = some (0x99, .write, 0x99) := by
  decide  -- R391
theorem test_dmaWrite_last : see .dmaWrite (st { mach with
      dma := { Dma.powerOn with latch := 5, index := 255, active := true, phase := .write } })
    (fun s => (s.machine.ppu.oam, s.machine.dma.active, s.machine.bus.openBus)) = some ([(0, 5)], false, 0x12) := by
  decide  -- R393
/-- With both lines presented the NMI is taken and the IRQ level stays; next the permitted IRQ is; a masked one is not. -/
theorem test_cpuStep : (cpuStep cfg0 { mach with core := [1], cpu := { mach.cpu with nmiPending := true, irqLine := true } }).cpu =
      { busy := 6, nmiPending := false, irqLine := true, cycles := 0 } ∧
    (cpuStep cfg0 { mach with core := [1], cpu := { mach.cpu with irqLine := true } }).cpu.busy = 6 ∧
    (cpuStep cfg0 { mach with cpu := { mach.cpu with irqLine := true } }).cpu.busy = 1 := by decide  -- R384, R387, R395
theorem test_nrom : see (.nromCpuRead 0xFFFC) (withCart (cart .nrom 1 0 (0x3FFC, 0x42) (0, 1))) (·.result) =
      some (.optByte (some 0x42)) ∧
    see (.nromCpuWrite 0x8000 0x55) (withCart (cart .nrom 1 0 (0x3FFC, 0x42) (0, 1))) (fun s => s.machine.cart.map (·.prgRom)) =
      some (some [(0x3FFC, 0x42)]) ∧
    see (.nromPpuRead 0x1FFF) (withCart (cart .nrom 1 1 (0, 1) (0x1FFF, 9))) (·.result) = some (.optByte (some 9)) ∧
    see (.nromPpuWrite 0 0x81) (withCart (cart .nrom 1 1 (0, 1) (0x1FFF, 9))) (fun s => s.machine.cart.map (·.chr)) =
      some (some [(0x1FFF, 9)]) := by decide +kernel  -- R351 to R354
theorem test_uxrom : see (.uxromCpuRead 0x8000) (withCart (cart (.uxrom 3) 8 0 (0xC000, 0x42) (0, 1))) (·.result) =
      some (.optByte (some 0x42)) ∧
    see (.uxromCpuRead 0xFFFC) (withCart (cart (.uxrom 3) 8 0 (0x1FFFC, 0x42) (0, 1))) (·.result) =
      some (.optByte (some 0x42)) ∧
    see (.uxromCpuWrite 0xC123 0x0A) (withCart (cart (.uxrom 3) 8 0 (0, 1) (0, 1))) (fun s => s.machine.cart.map (·.mapper)) =
      some (some (.uxrom 0x0A)) ∧
    see (.uxromPpuRead 3) (withCart (cart (.uxrom 3) 8 0 (0, 1) (3, 4))) (·.result) = some (.optByte (some 4)) ∧
    see (.uxromPpuWrite 9 1) (withCart (cart (.uxrom 3) 8 0 (0, 1) (3, 4))) (fun s => s.machine.cart.map (·.chr)) =
      some (some [(3, 4), (9, 1)]) := by decide +kernel  -- R355 to R357
theorem test_cnrom : see (.cnromPpuRead 0x0010) (withCart (cart (.cnrom 5) 2 4 (0, 1) (0x2010, 0x42))) (·.result) =
      some (.optByte (some 0x42)) ∧
    see (.cnromCpuWrite 0x8000 0x01) (withCart (cart (.cnrom 5) 2 4 (0, 1) (0, 1))) (fun s => s.machine.cart.map (·.mapper)) =
      some (some (.cnrom 1)) ∧
    see (.cnromCpuRead 0x5FFF) (withCart (cart (.cnrom 5) 2 4 (0, 1) (0, 1))) (·.result) = some (.optByte none) ∧
    see (.cnromPpuWrite 0 7) (withCart (cart (.cnrom 5) 2 4 (0, 1) (0, 1))) (fun s => s.machine.cart.map (·.chr)) =
      some (some [(0, 1)]) := by decide +kernel  -- R358 to R361
theorem test_mirrorMode : see .mirrorMode (st mach) (·.result) = some (.mode .horizontal) ∧
    see .mirrorMode (withCart { cart .nrom 1 0 (0, 1) (0, 1) with
      header := { hdr 0 1 0 with fourScreen := true } }) (·.result) = some (.mode .fourScreen) ∧
    see .irqPending (st mach) (·.result) = some (.level false) := by decide  -- R362, R349
theorem test_hostInit : see .hostInit (st mach) (fun s => (s.machine.cart, s.machine.ppu.scanline, padMask s.machine)) =
    some (none, 0, 0) := by decide  -- R441
theorem test_hostDiscard : see .hostDiscard (st mach) (·.alive) = some false := by decide  -- R442
theorem test_hostExec_zero : execTime cfg0 0 mach = (0, mach) := by decide  -- R397
theorem test_hostInsertCart_short : see (.hostInsertCart (magic ++ [1, 0, 0, 0, 0, 0, 0, 0, 0, 0, 0, 0]))
    (withCart (cart .nrom 1 0 (0, 1) (0, 1))) (fun s => (s.result, s.machine.cart.isSome)) =
    some (.failure .malformedCartridge, true) := by decide  -- R330
theorem test_hostRemoveCartridge : see .hostRemoveCartridge (withCart (cart .nrom 1 0 (0, 1) (0, 1))) (·.machine.cart) =
    some none := by decide  -- R334
theorem test_hostReset : (warmReset cfg0 { mach with
      ppu := { Ppu.powerOn with frame := 5, oam := [(1, 2)] }, pad0 := { Pad.powerOn with live := 8, index := 4 } }).pad0 =
    { live := 8, snapshot := 0, index := 0, strobe := false } ∧ (warmReset cfg0 mach).cpu.busy = 7 := by decide  -- R511
theorem test_hostKeyDown : see (.hostKeyDown 3) (st mach) (·.machine.pad0.live) = some 0x08 := by decide  -- R444
theorem test_hostKeyUp : see (.hostKeyUp 3) (st { mach with pad0 := { Pad.powerOn with live := 0x08 } }) (·.machine.pad0.live) =
    some 0x00 := by decide  -- R445
theorem test_hostPadMask : see .hostPadMask (st { mach with
      pad0 := { Pad.powerOn with live := 1 }, pad1 := { Pad.powerOn with live := 0x80 } }) (·.result) =
    some (.padMask 0x8001) := by decide  -- R446
theorem test_hostDisplayInfo : see .hostDisplayInfo (sp { Ppu.powerOn with fb := [(7, 3)] })
    (fun s => match s.result with | .display d => (d.width, d.height, d.pixels) | _ => (0, 0, [])) =
    some (256, 240, [(7, 3)]) := by decide  -- R447
theorem test_hostSaveSnapshot : see (.hostSaveSnapshot 4) (st mach) (fun s => (s.snapshots.map (fun e => (e.1, e.2.image)))) =
    some [(4, mach)] := by decide  -- R421
theorem test_step_of_table_word :
    (nextOf (step ((st mach).withFetchWord 24 0b1_0000_0000_0000_0010))).map (fun s => (s.machine.bus.openBus, s.bench)) =
    some (0, none) := by decide
theorem test_nrom_outside_its_ranges :
    see (.nromPpuRead 0x2000) (withCart (cart .nrom 1 0 (0, 1) (0, 1))) (·.result) = some (.optByte none) ∧
    see (.nromPpuWrite 0x3FFF 7) (withCart (cart .nrom 1 0 (0, 1) (0, 1))) (fun s => s.machine.cart.map (·.chr)) =
      some (some [(0, 1)]) ∧
    see (.nromCpuRead 0x0000) (withCart (cart .nrom 1 0 (0, 1) (0, 1))) (·.result) = some (.optByte none) := by decide  -- R135

/-! ## Witnesses: states and operands that meet the premises of each statement, clause by clause at its boundaries -/

theorem witness_DecodeGivesBackEncodedOperation :
    (Instr.ramWr 0x1FFF 0xFF).wellFormed = true ∧ (Instr.ppuStatusRd 0x3FFA).wellFormed = true ∧
    (Instr.nromPpuWrite 0x1FFF 0xFF).wellFormed = true ∧ (Instr.hostExec 0).wellFormed = true ∧
    (Instr.hostLoadSnapshot 258 255).wellFormed = true ∧ (Instr.hostInsertCart []).wellFormed = true := by decide
theorem witness_DecodeYieldsWellFormedOperation : decode [0, 0x07, 0x20, 1, 0xFF] = .ok (.ppuDataWr 0x2007 0xFF) := by
  rfl
theorem witness_SelectorsFollowAddressMaps :
    [0x0000, 0x1FFF, 0x2000, 0x2001, 0x2002, 0x2003, 0x2004, 0x2005, 0x2006, 0x2007, 0x3FFF, 0x4000, 0x4013].map cpuReadInstr =
      [.ramRd 0x0000, .ramRd 0x1FFF, .ppuRegRdOpen 0x2000, .ppuRegRdOpen 0x2001, .ppuStatusRd 0x2002,
       .ppuRegRdOpen 0x2003, .oamDataRd 0x2004, .ppuRegRdOpen 0x2005, .ppuRegRdOpen 0x2006, .ppuDataRd 0x2007,
       .ppuDataRd 0x3FFF, .apuRd 0x4000, .apuRd 0x4013] ∧
    [0x4014, 0x4015, 0x4016, 0x4017, 0x4018, 0x401F, 0x4020, 0xFFFF].map cpuReadInstr =
      [.oamDmaRd, .apuRd 0x4015, .joy1Rd, .joy2Rd, .ioUnmappedRd 0x4018, .ioUnmappedRd 0x401F, .cartRd 0x4020,
       .cartRd 0xFFFF] ∧
    [0x0000, 0x1FFF, 0x2000, 0x3EFF, 0x3F00, 0x3FFF].map ppuReadInstr =
      [.patternRd 0x0000, .patternRd 0x1FFF, .nametableRd 0x2000, .nametableRd 0x3EFF, .paletteRd 0x3F00,
       .paletteRd 0x3FFF] := by decide
theorem witness_EveryBusWordSelectsOneOperation :
    decodeTableWord 24 0 = some (.ramRd 0) ∧ decodeTableWord 24 (2 ^ 17 - 1) = some (.cartWr 0xFFFF 0) ∧
    decodeTableWord 24 (2 ^ 17) = none ∧ decodeTableWord 24 (2 ^ 24 - 1) = none ∧
    decodeTableWord 16 0 = some (.patternRd 0) ∧ decodeTableWord 16 (2 ^ 15 - 1) = some (.paletteWr 0x3FFF 0) ∧
    decodeTableWord 16 (2 ^ 15) = none ∧ decodeTableWord 16 (2 ^ 16 - 1) = none := by decide

/-- A state with one command waiting. -/
def asked (f : List Byte) (b : Bool) (m : Mach) : State := { st m with requests := [f], alive := b }

/-- A state with an operation on the bench. -/
def benched (f : List Byte) (b : Bool) (m : Mach) : State := { st m with bench := some f, alive := b }

/-- The command a frame asks for. -/
def commands (f : List Byte) : Option Instr :=
  match decodeCommand f with
  | .ok i => some i
  | .error _ => none

theorem witness_StepExecutesOldestRequest :
    (asked [5, 0] false mach).requests = [5, 0] :: [] ∧ (asked [5, 0] false mach).bench = none ∧
    commands [5, 0] = some .hostInit ∧ (asked [5, 5] true mach).alive = true ∧ commands [5, 5] = some .hostReset ∧
    (benched [2, 16] true mach).bench = some [2, 16] ∧ decodes [2, 16] = some .posAdvance ∧
    (benched [2, 16] true mach).alive = true ∧ selected .posAdvance mach = true := by
  decide
theorem witness_StepWithoutRequestAndStops :
    (st mach).bench = none ∧ (st mach).requests = [] ∧ commands [5, 4] = some .hostRemoveCartridge ∧
    (nextOf (step (asked [5, 4] true mach))).isSome = true ∧
    commands [0, 0, 0, 0] = none ∧ (asked [0, 0, 0, 0] true mach).requests = [0, 0, 0, 0] :: [] ∧
    (benched [0] true mach).bench = some [0] ∧ decodes [0] = none ∧
    commands [5, 5] = some .hostReset ∧ (asked [5, 5] false mach).alive = false ∧
    decodes [0, 0, 0, 0] = some (.ramRd 0) ∧ (benched [0, 0, 0, 0] false mach).alive = false ∧
    decodes [2, 0] = some .vblSet ∧ (benched [2, 0] true mach).alive = true ∧ selected .vblSet mach = false ∧
    selected (.oamDmaWr 0) { mach with dma := { Dma.powerOn with active := true } } = false := by
  decide
theorem witness_EveryStepKeepsLegality : ∃ s', Legal State.reset ∧ step State.reset = .next s' :=
  ⟨_, ⟨powerOn_legal _, by simp [State.reset]⟩, rfl⟩
theorem witness_MirroredAddressesActAlike : (0x1FFF : Addr).toNat < 0x2000 ∧ 0x2000 ≤ (0x2000 : Addr).toNat ∧
    (0x3FFF : Addr).toNat < 0x4000 ∧ (busRead cfg0 (0x1FFF &&& 0x07FF) (busWrite cfg0 0x1FFF 7 mach)).1 = 7 ∧
    cpuReadOp 0x3FFF = cpuReadOp 0x2007 := by decide +kernel
theorem witness_OamDmaRequestAndByteMoves : (0x02FF : Addr).toNat =
    ({ Dma.powerOn with page := 0x02, index := 0xFF } : Dma).page.toNat * 256 +
    ({ Dma.powerOn with page := 0x02, index := 0xFF } : Dma).index.toNat := by decide
theorem witness_ControllerPortAccesses : (1 : Byte).toNat % 2 = 1 ∧ (0xFE : Byte).toNat % 2 = 0 := by decide
theorem witness_ShiftOutDeliversSnapshotInOrder : (mach.pad .one).strobe = false ∧ (mach.pad .one).index = 0 ∧
    (mach.pad .two).strobe = false ∧ (mach.pad .two).index = 0 := by decide
theorem witness_CartridgeAccessesGoToTheVariant : (st mach).machine.cart = none ∧
    (withCart (cart .nrom 1 0 (0, 1) (0, 1))).machine.cart = some (cart .nrom 1 0 (0, 1) (0, 1)) ∧
    (cart .nrom 1 0 (0, 1) (0, 1)).mapper = .nrom ∧ (cart (.uxrom 255) 1 0 (0, 1) (0, 1)).mapper = .uxrom 255 ∧
    (cart (.cnrom 0) 1 0 (0, 1) (0, 1)).mapper = .cnrom 0 ∧
    (cart (.further 4 [7]) 1 0 (0, 1) (0, 1)).mapper = .further 4 [7] := by decide
/-- A configuration with a further variant. -/
theorem witness_CartridgeAccessesGoToTheVariant_further : ∃ (c : Cfg) (v : VariantSpec), c.furtherVariant 4 = some v :=
  ⟨{ cfg0 with furtherVariant := fun _ => some (variant none none) }, _, rfl⟩
theorem witness_ScrollWritesFillScrollFields : (st mach).machine.ppu.w = false ∧
    (sp { Ppu.powerOn with w := true }).machine.ppu.w = true := by decide
theorem witness_AddressWritesFillVramAddress : (st mach).machine.ppu.w = false ∧
    (sp { Ppu.powerOn with w := true }).machine.ppu.w = true := by decide
/-- The last addresses of the regions, and a `v` whose increment by 32 wraps. -/
theorem witness_DataPortReadIsBufferedBelowPalette :
    (0x3EFF : PpuAddr).toNat = (0x7EFF : VramReg).toNat % 0x4000 ∧
    (0x7F00 : VramReg).toNat = ((0x7EFF : VramReg).toNat + (if (0x00 : Byte).getLsbD 2 then 32 else 1)) % 0x8000 ∧
    (0x3EFF : PpuAddr).toNat < 0x3F00 ∧
    (0x3FFF : PpuAddr).toNat = (0x7FFF : VramReg).toNat % 0x4000 ∧
    (0x001F : VramReg).toNat = ((0x7FFF : VramReg).toNat + (if (0x04 : Byte).getLsbD 2 then 32 else 1)) % 0x8000 ∧
    0x3F00 ≤ (0x3FFF : PpuAddr).toNat := by decide
theorem witness_DataPortWriteStoresByRegion :
    (0x2000 : PpuAddr).toNat = (0x2000 : VramReg).toNat % 0x4000 ∧
    (0x2020 : VramReg).toNat = ((0x2000 : VramReg).toNat + (if (0x04 : Byte).getLsbD 2 then 32 else 1)) % 0x8000 ∧
    (0x3F00 : PpuAddr).toNat = (0x3F00 : VramReg).toNat % 0x4000 ∧
    (0x3F01 : VramReg).toNat = ((0x3F00 : VramReg).toNat + (if (0x00 : Byte).getLsbD 2 then 32 else 1)) % 0x8000 := by
  decide

/-- Two units: the first transparent at column 10, the second opaque there. -/
def twoUnits (mask : Byte) : Ppu :=
  { Ppu.powerOn with
    mask := mask, spCount := 2, sp := [{ x := 3, attr := 0, lo := 0, hi := 0 }, { x := 10, attr := 0, lo := 0x80, hi := 0 }] }

theorem witness_PixelInputsFollowShiftersAndUnits :
    ((twoUnits 0x18).mask.getLsbD 3 = true ∧ ((twoUnits 0x18).mask.getLsbD 1 = true ∨ 8 ≤ 8)) ∧
    ¬((twoUnits 0x18).mask.getLsbD 3 = true ∧ ((twoUnits 0x18).mask.getLsbD 1 = true ∨ 8 ≤ 7)) ∧
    ((twoUnits 0x14).mask.getLsbD 4 = true ∧ ((twoUnits 0x14).mask.getLsbD 2 = true ∨ 8 ≤ 0)) ∧
    ¬((twoUnits 0x04).mask.getLsbD 4 = true ∧ ((twoUnits 0x04).mask.getLsbD 2 = true ∨ 8 ≤ 0)) ∧
    (twoUnits 0x18).sp[1]? = some { x := 10, attr := 0, lo := 0x80, hi := 0 } ∧
    unitPixel { x := 10, attr := 0, lo := 0x80, hi := 0 } 10 ≠ 0 ∧
    unitPixel { x := 3, attr := 0, lo := 0, hi := 0 } 10 = 0 ∧
    unitPixel { x := 3, attr := 0, lo := 0xFF, hi := 0xFF } 11 = 0 := by decide

/-- A picture generator with a background pixel of value `b` and a sprite pixel of value `s` at column 10. -/
def pixels (b s : Bool) (attr : Byte) : Ppu :=
  { Ppu.powerOn with
    mask := 0x18, cycle := 11, bgLo := if b then 0x8000 else 0, spCount := 1
    sp := [{ x := 10, attr := attr, lo := if s then 0x80 else 0, hi := 0 }] }

theorem witness_PixelComposesAndStores :
    ((bgPixel (pixels false false 0) 10).p = 0 ∧ (spPixel (pixels false false 0) 10).p = 0) ∧
    ((bgPixel (pixels false true 0) 10).p = 0 ∧ (spPixel (pixels false true 0) 10).p ≠ 0) ∧
    ((bgPixel (pixels true false 0) 10).p ≠ 0 ∧ (spPixel (pixels true false 0) 10).p = 0) ∧
    ((bgPixel (pixels true true 0) 10).p ≠ 0 ∧ (spPixel (pixels true true 0) 10).p ≠ 0 ∧
      (spPixel (pixels true true 0) 10).behind = false) ∧
    ((bgPixel (pixels true true 0x20) 10).p ≠ 0 ∧ (spPixel (pixels true true 0x20) 10).p ≠ 0 ∧
      (spPixel (pixels true true 0x20) 10).behind = true) := by decide
theorem witness_BackgroundFetchesReadComputedAddresses :
    (0x2FFF : PpuAddr).toNat = 0x2000 + (0x7FFF : VramReg).toNat % 0x1000 ∧
    (0x2FFF : PpuAddr).toNat = 0x23C0 + (0x7FFF : VramReg).toNat / 0x400 % 4 * 0x400 +
      (0x7FFF : VramReg).toNat / 128 % 8 * 8 + (0x7FFF : VramReg).toNat / 4 % 8 ∧
    (0x1FF7 : PpuAddr).toNat = (if (0x10 : Byte).getLsbD 4 then 0x1000 else 0) + (0xFF : Byte).toNat * 16 +
      (0x7FFF : VramReg).toNat / 0x1000 ∧
    (0x1FFF : PpuAddr).toNat = (0x1FF7 : PpuAddr).toNat + 8 := by decide
/-- One `v` for each clause: coarse X 31 and 30; fine Y 6; fine Y 7 with coarse Y 29, 31 and 30. -/
theorem witness_VramIncrementsAndCopies :
    (0x7FFF : VramReg).toNat % 32 = 31 ∧ (0x7FFE : VramReg).toNat % 32 ≠ 31 ∧ (0x6FFF : VramReg).toNat / 4096 < 7 ∧
    ((0x73A0 : VramReg).toNat / 4096 = 7 ∧ (0x73A0 : VramReg).toNat / 32 % 32 = 29) ∧
    ((0x73E0 : VramReg).toNat / 4096 = 7 ∧ (0x73E0 : VramReg).toNat / 32 % 32 = 31) ∧
    ((0x73C0 : VramReg).toNat / 4096 = 7 ∧ (0x73C0 : VramReg).toNat / 32 % 32 ≠ 29 ∧
      (0x73C0 : VramReg).toNat / 32 % 32 ≠ 31) := by decide

/-- A state at the evaluation of `oneSprite`. -/
def spriteState : State := st { mach with cart := some (cart .nrom 1 0 (0, 1) (0x10, 0x80)), ppu := oneSprite }

theorem witness_SpriteUnitsHoldTheChosenEntries : ∃ t : State,
    spriteState.machine.ppu.sp.length = 8 ∧
    [0] = (List.range 64).filter (fun e => decide ((Memory.read spriteState.machine.ppu.oam (4 * e)).toNat ≤
        spriteState.machine.ppu.scanline ∧ spriteState.machine.ppu.scanline <
        (Memory.read spriteState.machine.ppu.oam (4 * e)).toNat + 8)) ∧
    (∀ e ∈ [0], (0x10 : PpuAddr).toNat = 0 + (Memory.read spriteState.machine.ppu.oam (4 * e + 1)).toNat * 16 +
        (spriteState.machine.ppu.scanline - (Memory.read spriteState.machine.ppu.oam (4 * e)).toNat) ∧
      (0x18 : PpuAddr).toNat = (0x10 : PpuAddr).toNat + 8) ∧
    exec .spLoad spriteState = .next t ∧ [0][0]? = some 0 :=
  ⟨_, by decide, by decide +kernel, by decide, rfl, rfl⟩
theorem witness_SpriteClearAndPositionSteps :
    (sp { Ppu.powerOn with cycle := 339 }).machine.ppu.cycle < 340 ∧
    340 ≤ (sp { Ppu.powerOn with cycle := 340, scanline := 260 }).machine.ppu.cycle ∧
    (sp { Ppu.powerOn with cycle := 340, scanline := 260 }).machine.ppu.scanline < 261 ∧
    261 ≤ (sp { Ppu.powerOn with cycle := 340, scanline := 261 }).machine.ppu.scanline := by decide
theorem witness_DotRunsSelectedOperationsInOrder :
    (sp { Ppu.powerOn with scanline := 261, cycle := 340 }).machine.ppu.scanline ≤ 261 ∧
    (sp { Ppu.powerOn with scanline := 261, cycle := 340 }).machine.ppu.cycle ≤ 340 ∧
    dotOrder.filter (fun i => selected i
      { mach with ppu := { Ppu.powerOn with scanline := 261, cycle := 339, frame := 1, mask := 8 } }) =
      [.bgDummyNt, .posSkip] := by decide
theorem witness_FrameTakesItsNumberOfDots : mach.ppu.scanline = 0 ∧ mach.ppu.cycle = 0 ∧ mach.ppu.frame % 2 = 0 ∧
    { Ppu.powerOn with frame := 1 }.frame % 2 = 1 := by decide
theorem witness_DotChangesFlagsOnlyAtTheirDots :
    (ppuTick cfg0 { mach with ppu := { Ppu.powerOn with scanline := 241, cycle := 1 } }).ppu.vblank = true ∧
    (ppuTick cfg0 { mach with ppu := { Ppu.powerOn with scanline := 261, cycle := 1, sprite0Hit := true } }).ppu.sprite0Hit =
      false ∧
    (ppuTick cfg0 { mach with ppu := { Ppu.powerOn with scanline := 260, cycle := 1, sprite0Hit := true } }).ppu.sprite0Hit =
      true := by decide
/-- The sprite-0 flag rises at the last dot that draws, and the overflow flag at an evaluation of 64 entries in range. -/
theorem witness_DotChangesFlagsOnlyAtTheirDots_rise :
    (ppuTick cfg0 { mach with ppu := { Ppu.powerOn with
      mask := 0x1E, scanline := 239, cycle := 256, spCount := 1, spZero := true, bgLo := 0x8000
      sp := [{ x := 255, attr := 0, lo := 0x80, hi := 0 }] } }).ppu.sprite0Hit = true ∧
    (ppuTick cfg0 { mach with ppu := { Ppu.powerOn with
      mask := 0x08, scanline := 0, cycle := 257 } }).ppu.overflow = true := by decide +kernel
/-- The three choices of a core step: both lines, the IRQ line alone, none. -/
theorem witness_CoreStepRunsProgramAndClearsNmi :
    (st { mach with cpu := { mach.cpu with nmiPending := true, irqLine := true } }).machine.cpu.nmiPending = true ∧
    (st { mach with cpu := { mach.cpu with irqLine := true } }).machine.cpu.nmiPending = false ∧
    (st { mach with cpu := { mach.cpu with irqLine := true } }).machine.cpu.irqLine = true ∧
    (st mach).machine.cpu.nmiPending = false ∧ (st mach).machine.cpu.irqLine = false ∧
    (Config.cfg.core.irqPermitted [] = true ∨ Config.cfg.core.irqPermitted [] = false) :=
  ⟨rfl, rfl, rfl, rfl, rfl, by cases Config.cfg.core.irqPermitted [] <;> simp⟩
/-- A state whose transfer starts, and one whose core steps. -/
theorem witness_CpuCycleRunsTheOneSelectedOperation :
    driverOperations.filter (fun j => selected j { mach with dma := { Dma.powerOn with request := true } }) = [.dmaStart] ∧
    driverOperations.filter (fun j => selected j mach) = [.cpuStep] := by decide
/-- A transfer of the last page in RAM from an odd cycle. -/
theorem witness_OamDmaStallsAndCopiesThePage : ∃ m : Mach, m.cpu.busy = 0 ∧ m.dma.request = true ∧ m.dma.active = false ∧
    m.dma.page.toNat < 0x20 ∧ m.cpu.cycles % 2 = 1 :=
  ⟨{ mach with cpu := { mach.cpu with cycles := 1 }, dma := { Dma.powerOn with request := true, page := 0x1F } }, by decide⟩
/-- A latched NMI, a status read that keeps it, and a control write with the enable bit clear that keeps it. -/
theorem witness_NmiLatchIsSetByVblSetAlone : ∃ s t u : State,
    (∀ x, (Instr.ppuStatusRd 0x2002) ≠ .hostExec x) ∧ (∀ v n, (Instr.ppuStatusRd 0x2002) ≠ .hostLoadSnapshot v n) ∧
    (Instr.ppuStatusRd 0x2002) ≠ .vblSet ∧ (Instr.ppuStatusRd 0x2002) ≠ .cpuStep ∧ (Instr.ppuStatusRd 0x2002) ≠ .hostInit ∧
    (Instr.ppuStatusRd 0x2002) ≠ .hostReset ∧
    exec (.ppuStatusRd 0x2002) s = .next t ∧ s.machine.cpu.nmiPending = true ∧ t.machine.cpu.nmiPending = true ∧
    exec (.ppuCtrlWr 0x2000 0) t = .next u ∧ u.machine.cpu.nmiPending = true :=
  ⟨st { mach with cpu := { mach.cpu with nmiPending := true } }, _, _, nofun, nofun, nofun, nofun, nofun, nofun, rfl, rfl, rfl,
    rfl, rfl⟩
theorem witness_NmiLatchIsSetByVblSetAlone_cycle : ∃ (c : Cfg) (m : Mach), m.cpu.nmiPending = true ∧
    (cpuCycle c { m with cpu := { m.cpu with busy := 1 } }).cpu.nmiPending = true :=
  ⟨cfg0, { mach with cpu := { mach.cpu with nmiPending := true } }, rfl, by decide +kernel⟩
/-- A unit of two cycles whose budget is met after the first of them. -/
theorem witness_ExecRunsUnitsUntilBudgetIsMet : 0 < 1 * { cfg0 with cpuHz := 1 }.cpuHz ∧
    (execTime { cfg0 with cpuHz := 1 } 1 mach).1 = 2 ∧ 1 * { cfg0 with cpuHz := 1 }.cpuHz ≤ 1 * 1000000 ∧
    (machineCycle { cfg0 with cpuHz := 1 } mach).cpu.busy ≠ 0 := by decide +kernel
theorem witness_NromCapabilities : (withCart (cart .nrom 1 0 (0, 1) (0, 1))).machine.cart =
    some (cart .nrom 1 0 (0, 1) (0, 1)) ∧ (cart .nrom 1 0 (0, 1) (0, 1)).mapper = .nrom := by decide
theorem witness_UxromCapabilities : (withCart (cart (.uxrom 3) 8 0 (0, 1) (0, 1))).machine.cart =
    some (cart (.uxrom 3) 8 0 (0, 1) (0, 1)) ∧ (cart (.uxrom 3) 8 0 (0, 1) (0, 1)).mapper = .uxrom 3 := by decide
theorem witness_CnromCapabilities : (withCart (cart (.cnrom 5) 2 4 (0, 1) (0, 1))).machine.cart =
    some (cart (.cnrom 5) 2 4 (0, 1) (0, 1)) ∧ (cart (.cnrom 5) 2 4 (0, 1) (0, 1)).mapper = .cnrom 5 := by decide

theorem witness_MirrorModeAndIrqOfTheCartridge :
    (cart .nrom 1 0 (0, 1) (0, 1)).reference ∧ (cart (.further 4 []) 1 0 (0, 1) (0, 1)).mapper = .further 4 [] ∧
    { cfg0 with furtherVariant := fun _ => some (variant (some fun _ => .singleUpper) (some fun _ => true)) }.furtherVariant 4 =
      some (variant (some fun _ => .singleUpper) (some fun _ => true)) ∧
    (variant (some fun _ => .singleUpper) none).irqPending = none ∧ (variant none (some fun _ => true)).mirroring = none :=
  ⟨nofun, rfl, rfl, rfl, rfl⟩
/-- Two cartridges with the same registers and different work RAM and graphics. -/
theorem witness_MirrorModeAndIrqOfTheCartridge_registers :
    (cart (.further 4 [7]) 1 0 (0, 1) (0, 1)).mapper = (cart (.further 4 [7]) 1 1 (0, 2) (0, 3)).mapper ∧
    cart (.further 4 [7]) 1 0 (0, 1) (0, 1) ≠ cart (.further 4 [7]) 1 1 (0, 2) (0, 3) := by decide
theorem witness_CapabilityOfAnAbsentVariantIsRefused :
    (∀ k, (st mach).machine.cart = some k → k.mapper ≠ .nrom) ∧
    (∀ k, (withCart (cart .nrom 1 0 (0, 1) (0, 1))).machine.cart = some k → ∀ b, k.mapper ≠ .uxrom b) ∧
    (∀ k, (withCart (cart (.uxrom 0) 1 0 (0, 1) (0, 1))).machine.cart = some k → ∀ b, k.mapper ≠ .cnrom b) := by
  refine ⟨nofun, fun k hk => ?_, fun k hk => ?_⟩ <;> (obtain rfl := Option.some.inj hk; nofun)
theorem witness_CartridgeRomIsImmutable : ∃ s' : State, (Instr.nromPpuWrite 0 7) ≠ .hostInit ∧
    (Instr.nromPpuWrite 0 7) ≠ .hostRemoveCartridge ∧ (∀ image, (Instr.nromPpuWrite 0 7) ≠ .hostInsertCart image) ∧
    (∀ v n, (Instr.nromPpuWrite 0 7) ≠ .hostLoadSnapshot v n) ∧
    (withCart (cart .nrom 1 1 (0, 1) (0, 1))).machine.cart = some (cart .nrom 1 1 (0, 1) (0, 1)) ∧
    exec (.nromPpuWrite 0 7) (withCart (cart .nrom 1 1 (0, 1) (0, 1))) = .next s' ∧
    (cart .nrom 1 1 (0, 1) (0, 1)).chrIsRam = false :=
  ⟨_, nofun, nofun, nofun, nofun, rfl, rfl, rfl⟩

/-- An image: the header bytes 4 to 7, zeros up to 16 bytes, and one program bank of zeros. -/
def image (b4 b5 b6 b7 : Byte) : List Byte :=
  magic ++ [b4, b5, b6, b7, 0, 0, 0, 0, 0, 0, 0, 0] ++ List.replicate 16384 0

/-- The three reference ids, the first with an image of exactly the length its header asks for, and a further one. -/
theorem witness_InsertCartBuildsTheCartridge :
    ImageWellFormed (image 1 0 0 0) 16 ∧ ImageWellFormed (image 1 0 0x20 0) 16 ∧ ImageWellFormed (image 1 0 0x30 0) 16 ∧
    ImageWellFormed (image 1 0 0x40 0) 16 ∧
    imageId (image 1 0 0 0) = 0 ∧ imageId (image 1 0 0x20 0) = 2 ∧ imageId (image 1 0 0x30 0) = 3 ∧
    imageId (image 1 0 0x40 0) = 4 := by
  simp [image, imageId, ImageWellFormed, magic, -List.reduceReplicate]
theorem witness_InsertCartBuildsTheCartridge_further : ∃ (c : Cfg) (v : VariantSpec),
    c.supported 4 = true ∧ c.furtherVariant 4 = some v :=
  ⟨{ cfg0 with supported := fun _ => true, furtherVariant := fun _ => some (variant none none) }, _, rfl, rfl⟩
/-- Each failure: too short, wrong magic, no program bank, a trainer that is missing, an unknown mapper. -/
theorem witness_InsertCartFailsWithoutEffect :
    (magic ++ [1, 0, 0, 0, 0, 0, 0, 0, 0, 0, 0]).length < 16 ∧ (0 :: image 1 0 0 0).getD 0 0 ≠ 0x4E ∧
    (image 0 0 0 0).getD 4 0 = 0 ∧
    (image 1 0 4 0).length < (if ((image 1 0 4 0).getD 6 0).getLsbD 2 then 528 else 16) +
      ((image 1 0 4 0).getD 4 0).toNat * 16384 + ((image 1 0 4 0).getD 5 0).toNat * 8192 ∧
    cfg0.supported (parseHeader ((image 1 0 0x10 0).take 16)).mapperId = false ∧
    ImageWellFormed (image 1 0 0x10 0) 16 ∧ cfg0.supported (imageId (image 1 0 0x10 0)) = false ∧
    (insertCart cfg0 [] mach).1 ≠ .success := by
  refine ⟨by decide, by simp, by simp [image, magic, -List.reduceReplicate], by simp [image, magic, -List.reduceReplicate], ?_,
    by simp [image, ImageWellFormed, magic, -List.reduceReplicate],
    by simp [image, imageId, magic, cfg0, -List.reduceReplicate], by decide⟩
  have h : (image 1 0 0x10 0).take 16 = magic ++ [1, 0, 0x10, 0, 0, 0, 0, 0, 0, 0, 0, 0] := by
    simp [image, magic, -List.reduceReplicate]
  rw [h]; decide
theorem witness_WarmResetClearsThenRunsTheSequence :
    [Mapper.nrom, .uxrom 7, .cnrom 7].map (resetMapper Config.cfg) = [.nrom, .uxrom 0, .cnrom 0] := by decide
theorem witness_RemoveCartridgeLeavesOpenBus : 0x4020 ≤ (0x4020 : Addr).toNat ∧ (0x1FFF : PpuAddr).toNat < 0x2000 := by
  decide
theorem witness_SnapshotCommands :
    findSnapshot (4 : Byte).toNat [(4, { version := Config.cfg.snapshotVersion, image := mach })] =
      some { version := Config.cfg.snapshotVersion, image := mach } ∧
    findSnapshot (4 : Byte).toNat (st mach).snapshots = none ∧
    Config.cfg.snapshotVersion + 1 ≠ Config.cfg.snapshotVersion :=
  ⟨rfl, rfl, by omega⟩
theorem witness_SnapshotRoundTripRestoresTheMachine : ∃ s1 s2 : State,
    exec (.hostSaveSnapshot 4) (st mach) = .next s1 ∧
    Instr.hostSaveSnapshot 4 ∉ [.vblSet, .hostSaveSnapshot 5, .hostInit] ∧
    ([.vblSet, .hostSaveSnapshot 5, .hostInit].foldl (fun (o : Option State) i => o.bind (fun x =>
      match exec i x with | .next y => some y | .fault _ => none | .refused _ => none)) (some s1)) = some s2 :=
  ⟨_, _, rfl, by decide, rfl⟩

end Sys2Proof.Tests
end

/-! PROOF. No operation in play writes a cartridge's header, program ROM or graphics ROM (R335). The
invariant `RomKept k` says that the Machine still holds a cartridge with the ROM of `k`. A capability call keeps it
(Sys2Proof/Laws/Frames.lean, `CapFrame`), nothing else touches the cartridge but a reset, so it is carried from the
accesses of both buses through dots, CPU cycles and units to whole host commands. -/

namespace Sys2Proof.Machine

section RomKept

/-- The Machine holds a cartridge with the header, the program ROM, the kind of graphics memory and, where that is ROM,
the graphics memory of `k`. -/
def RomKept (k : Cartridge) (m : Mach) : Prop := ∃ k', m.cart = some k' ∧ CapFrame k k'

variable {c : Cfg} {k k' : Cartridge} {m : Mach} {s s' : State}

theorem CapFrame.trans {k'' : Cartridge} (h : CapFrame k k') (g : CapFrame k' k'') : CapFrame k k'' :=
  ⟨g.header.trans h.header, g.prgRom.trans h.prgRom, g.chrIsRam.trans h.chrIsRam,
   fun hf => (g.rom (h.chrIsRam.trans hf)).trans (h.rom hf)⟩

theorem RomKept.of_cart (h : m.cart = some k) : RomKept k m := ⟨k, h, CapFrame.refl k⟩

/-- Storing the cartridge a capability call returned. -/
theorem CapFrame.romKept_setCart (h : CapFrame k k') : RomKept k (m.setCart (some k')) := ⟨k', rfl, h⟩

theorem RomKept.ite {p : Prop} [Decidable p] {f : Mach → Mach} (hf : ∀ x, RomKept k x → RomKept k (f x))
    (h : RomKept k m) : RomKept k (if p then f m else m) := by
  split
  · exact hf m h
  · exact h

/-! ## PPU-side accesses -/

theorem patternRead_romKept (h : RomKept k m) (a : PpuAddr) : RomKept k (patternRead c a m).2 := by
  obtain ⟨k', hk, hf⟩ := h
  simp only [patternRead, hk]
  exact (hf.trans (mapPpuRead_frame c k' a)).romKept_setCart

theorem patternWrite_romKept (h : RomKept k m) (a : PpuAddr) (d : Byte) : RomKept k (patternWrite c a d m) := by
  obtain ⟨k', hk, hf⟩ := h
  simp only [patternWrite, hk]
  exact (hf.trans (mapPpuWrite_frame c k' a d)).romKept_setCart

theorem ppuRead_romKept (h : RomKept k m) (a : PpuAddr) : RomKept k (ppuRead c a m).2 := by
  unfold ppuRead
  split
  · exact patternRead_romKept h a
  · exact h
  · exact h

theorem ppuWrite_romKept (h : RomKept k m) (a : PpuAddr) (d : Byte) : RomKept k (ppuWrite c a d m) := by
  unfold ppuWrite
  split
  · exact patternWrite_romKept h a d
  · exact h
  · exact h

/-! ## CPU-side accesses -/

theorem dataRead_romKept (h : RomKept k m) : RomKept k (dataRead c m).2 := by
  unfold dataRead
  dsimp only
  split
  · exact ppuRead_romKept h _
  · exact ppuRead_romKept (ppuRead_romKept h _) _

theorem dataWrite_romKept (h : RomKept k m) (d : Byte) : RomKept k (dataWrite c d m) := ppuWrite_romKept h _ d

theorem scrollWrite_romKept (h : RomKept k m) (d : Byte) : RomKept k (scrollWrite d m) := by
  unfold scrollWrite
  split
  · exact h
  · exact h

theorem addrWrite_romKept (h : RomKept k m) (d : Byte) : RomKept k (addrWrite d m) := by
  unfold addrWrite
  split
  · exact h
  · exact h

theorem cartRead_romKept (h : RomKept k m) (a : Addr) : RomKept k (cartRead c a m).2 := by
  obtain ⟨k', hk, hf⟩ := h
  simp only [cartRead, hk]
  exact (hf.trans (mapCpuRead_frame c k' a)).romKept_setCart

theorem cartWrite_romKept (h : RomKept k m) (a : Addr) (d : Byte) : RomKept k (cartWrite c a d m) := by
  obtain ⟨k', hk, hf⟩ := h
  simp only [cartWrite, hk]
  exact (hf.trans (mapCpuWrite_frame c k' a d)).romKept_setCart

theorem busRead_romKept (h : RomKept k m) (a : Addr) : RomKept k (busRead c a m).2 := by
  show RomKept k (readTarget c a m).2
  unfold readTarget
  cases cpuReadOp a with
  | ppuData => exact dataRead_romKept h
  | cart => exact cartRead_romKept h a
  | _ => exact h

theorem busWrite_romKept (h : RomKept k m) (a : Addr) (d : Byte) : RomKept k (busWrite c a d m) := by
  have hl : RomKept k (m.setOpenBus d) := h
  unfold busWrite writeTarget
  cases cpuWriteOp a with
  | scroll => exact scrollWrite_romKept hl d
  | addr => exact addrWrite_romKept hl d
  | ppuData => exact dataWrite_romKept hl d
  | cart => exact cartWrite_romKept hl a d
  | _ => exact hl

theorem runProg_romKept (h : RomKept k m) (pr : Prog) : RomKept k (runProg c pr m).2 :=
  runProg_keeps (P := RomKept k) (fun a _ hx => busRead_romKept hx a) (fun a d _ hx => busWrite_romKept hx a d) pr m h

/-! ## Dots -/

theorem vblSet_romKept (h : RomKept k m) : RomKept k (vblSet m) :=
  RomKept.ite (f := assertNmi) (fun _ hx => hx) (m := m.setPpu _) h

theorem dotFetch_romKept (h : RomKept k m) (cy : Nat) : RomKept k (dotFetch c cy m) := by
  unfold dotFetch
  split
  · exact ppuRead_romKept h _
  · exact ppuRead_romKept h _
  · exact ppuRead_romKept h _
  · exact ppuRead_romKept h _
  · exact h
  · exact h

theorem dotPipeline_romKept (h : RomKept k m) (sl cy : Nat) : RomKept k (dotPipeline c sl cy m) :=
  .ite (f := bgDummyNt c) (fun _ hx => ppuRead_romKept hx _) <| .ite (f := vCopyY) (fun _ hx => hx) <|
    .ite (f := vCopyX) (fun _ hx => hx) <| .ite (f := vIncY) (fun _ hx => hx) <|
    .ite (f := fun x => dotFetch c cy (bgShift x)) (fun x hx => dotFetch_romKept (m := bgShift x) hx cy) h

theorem loadUnit_romKept (h : RomKept k m) (n e : Nat) : RomKept k (loadUnit c n e m) :=
  ppuRead_romKept (ppuRead_romKept h _) _

theorem spScan_romKept (es : List Nat) (n : Nat) (z : Bool) (h : RomKept k m) : RomKept k (spScan c es n z m) := by
  induction es generalizing n z m with
  | nil => exact h
  | cons e es ih =>
    unfold spScan
    split
    · split
      · exact ih _ _ (loadUnit_romKept h n e)
      · exact h
    · exact ih _ _ h

theorem dotSprites_romKept (h : RomKept k m) (sl cy : Nat) (r : Bool) : RomKept k (dotSprites c sl cy r m) := by
  unfold dotSprites
  split
  · split
    · exact spScan_romKept _ _ _ h
    · exact h
  · exact h

theorem dotWork_romKept (h : RomKept k m) : RomKept k (dotWork c m) := by
  have h1 : RomKept k (dotFlags m.ppu.scanline m.ppu.cycle m) :=
    .ite (f := flagsClr) (fun _ hx => hx) (.ite (f := vblSet) (fun _ hx => vblSet_romKept hx) h)
  have h2 : RomKept k (dotPixel c m.ppu.scanline m.ppu.cycle (dotFlags m.ppu.scanline m.ppu.cycle m)) :=
    .ite (f := pixel c) (fun _ hx => hx) h1
  exact dotSprites_romKept (.ite (fun _ hx => dotPipeline_romKept hx _ _) h2) _ _ _

theorem posAdvance_romKept (h : RomKept k m) : RomKept k (posAdvance m) := by
  unfold posAdvance
  dsimp only
  split
  · exact h
  · split
    · exact h
    · exact h

theorem ppuTick_romKept (h : RomKept k m) : RomKept k (ppuTick c m) := by
  obtain ⟨sl, cy, f, e⟩ := dotPosition_eq_setPpu (dotWork c m)
  rw [ppuTick_eq_dotWork, e]
  exact dotWork_romKept h

/-! ## Cycles and units -/

theorem cpuStep_romKept (h : RomKept k m) : RomKept k (cpuStep c m) := runProg_romKept h _

theorem dmaRead_romKept (h : RomKept k m) : RomKept k (dmaRead c m) := busRead_romKept h _

theorem dmaWrite_romKept (h : RomKept k m) : RomKept k (dmaWrite m) := by
  unfold dmaWrite
  dsimp only
  split
  · exact h
  · exact h

theorem dmaCycle_romKept (h : RomKept k m) : RomKept k (dmaCycle c m) := by
  have h1 : RomKept k (if m.dma.request && !m.dma.active then dmaStart m else m) := .ite (fun _ hx => hx) h
  unfold dmaCycle
  dsimp only
  generalize (if m.dma.request && !m.dma.active then dmaStart m else m) = m' at h1 ⊢
  split
  · exact h1
  · split
    · exact dmaRead_romKept h1
    · exact dmaWrite_romKept h1

theorem cpuCycle_romKept (h : RomKept k m) : RomKept k (cpuCycle c m) := by
  have h1 : RomKept k (cycleStart c m) := h
  show RomKept k (cycleWork c (cycleStart c m))
  unfold cycleWork
  split
  · exact h1
  · split
    · exact dmaCycle_romKept h1
    · exact cpuStep_romKept h1

theorem machineCycle_romKept (h : RomKept k m) : RomKept k (machineCycle c m) :=
  cpuCycle_romKept (ppuTick_romKept (ppuTick_romKept (ppuTick_romKept h)))

theorem burnRest_romKept (fuel n : Nat) (h : RomKept k m) : RomKept k (burnRest c fuel n m).2 := by
  induction fuel generalizing n m with
  | zero => exact h
  | succ fuel ih =>
    unfold burnRest
    split
    · exact h
    · exact ih _ (machineCycle_romKept h)

theorem runUnit_romKept (h : RomKept k m) : RomKept k (runUnit c m).2 := burnRest_romKept _ _ (machineCycle_romKept h)

theorem execLoop_romKept (budget fuel ticks : Nat) (h : RomKept k m) :
    RomKept k (execLoop c budget fuel ticks m).2 := by
  induction fuel generalizing ticks m with
  | zero => exact h
  | succ fuel ih =>
    rw [execLoop_succ]
    split
    · exact ih _ (runUnit_romKept h)
    · exact h

/-! ## Host commands -/

/-- A reset replaces the cartridge's registers alone (R511). -/
theorem resetClear_romKept (h : RomKept k m) : RomKept k (resetClear c m) := by
  obtain ⟨k', hk, hf⟩ := h
  refine ⟨resetCart c k', ?_, hf.trans ⟨rfl, rfl, rfl, fun _ => rfl⟩⟩
  simp [resetClear, hk]

theorem warmReset_romKept (h : RomKept k m) : RomKept k (warmReset c m) := runProg_romKept (resetClear_romKept h) _

theorem setKey_romKept (h : RomKept k m) (code : Byte) (v : Bool) : RomKept k (setKey code v m) := by
  unfold setKey
  split
  · exact h
  · simpa [RomKept] using h

/-! ## The outcomes of operations -/

/-- Whatever an operation answers, and whatever it leaves on the open-bus latch, is no part of the cartridge: this
serves `answerRead`, `answerPpuRead` and `answerMach` alike. -/
theorem next_romKept {t : State} (e : (.next t : Host.Outcome State Fault Refusal) = .next s')
    (h : RomKept k t.machine) : RomKept k s'.machine := by
  cases e; exact h

/-- A CPU-side write, whose latch is set first (R182). -/
theorem answerWrite_romKept {d : Byte} {op : Mach → Mach} (e : answerWrite s d op = .next s')
    (hop : ∀ x, RomKept k x → RomKept k (op x)) (h : RomKept k s.machine) : RomKept k s'.machine := by
  cases e; exact hop _ h

/-- A capability read called alone changes nothing but the answer. -/
theorem capRead_romKept {f : Cartridge → Option (Option Byte)} (e : capRead s f = .next s')
    (h : RomKept k s.machine) : RomKept k s'.machine := by
  unfold capRead at e
  split at e
  · cases e
  · split at e
    · cases e
    · cases e; exact h

/-- A capability write called alone, which stores what the capability call `g` of any variant would. -/
theorem capWrite_romKept {f : Cartridge → Option Cartridge} {g : Cartridge → Cartridge}
    (e : capWrite s f = .next s') (h : RomKept k s.machine) (hg : ∀ x, CapFrame x (g x))
    (hf : ∀ x y, f x = some y → y = g x) : RomKept k s'.machine := by
  obtain ⟨x, hx, hk⟩ := h
  simp only [capWrite, hx] at e
  split at e
  · cases e
  · next y hy =>
    cases e
    rw [hf x y hy]
    exact (hk.trans (hg x)).romKept_setCart

/-- Every operation in play keeps the cartridge and its ROM, from any Machine that holds one. -/
theorem exec_romKept {i : Instr} (hinit : i ≠ .hostInit) (hremove : i ≠ .hostRemoveCartridge)
    (hinsert : ∀ image, i ≠ .hostInsertCart image) (hload : ∀ v n, i ≠ .hostLoadSnapshot v n)
    (e : exec i s = .next s') (h : RomKept k s.machine) : RomKept k s'.machine := by
  cases i with
  -- what does not touch the cartridge
  | ramRd | ramWr | ppuRegRdOpen | ppuCtrlWr | ppuMaskWr | ppuStatusRd | ppuStatusWr | oamAddrWr | oamDataRd
  | oamDataWr | oamDmaRd | oamDmaWr | apuRd | apuWr | joy1Rd | joyStrobe | joy2Rd | apu4017Wr | ioUnmappedRd
  | ioUnmappedWr | paletteRd | paletteWr | nametableRd | nametableWr
  | flagsClr | pixel | bgShift | bgReload | vIncX | vIncY | vCopyX | vCopyY | spClear | posSkip
  | cpuBurn | dmaStart | dmaWait | mirrorMode | irqPending
  | hostDiscard | hostPadMask | hostDisplayInfo | hostSaveSnapshot => exact next_romKept e h
  -- the CPU-side bus
  | ppuScrollWr _ d => exact answerWrite_romKept e (fun _ hx => scrollWrite_romKept hx d) h
  | ppuAddrWr _ d => exact answerWrite_romKept e (fun _ hx => addrWrite_romKept hx d) h
  | ppuDataRd => exact next_romKept e (dataRead_romKept h)
  | ppuDataWr _ d => exact answerWrite_romKept e (fun _ hx => dataWrite_romKept hx d) h
  | cartRd a => exact next_romKept e (cartRead_romKept h a)
  | cartWr a d => exact answerWrite_romKept e (fun _ hx => cartWrite_romKept hx a d) h
  -- the PPU-side bus
  | patternRd a => exact next_romKept e (patternRead_romKept h a)
  | patternWr a d => exact next_romKept e (patternWrite_romKept h a d)
  -- dots
  | vblSet => exact next_romKept e (vblSet_romKept h)
  | bgFetchNt | bgFetchAt | bgFetchLo | bgFetchHi | bgDummyNt => exact next_romKept e (ppuRead_romKept h _)
  | spLoad => exact next_romKept e (spScan_romKept _ _ _ h)
  | posAdvance => exact next_romKept e (posAdvance_romKept h)
  -- CPU cycles
  | cpuStep => exact next_romKept e (cpuStep_romKept h)
  | dmaRead => exact next_romKept e (dmaRead_romKept h)
  | dmaWrite => exact next_romKept e (dmaWrite_romKept h)
  -- capabilities called alone
  | nromCpuRead | nromPpuRead | uxromCpuRead | uxromPpuRead | cnromCpuRead | cnromPpuRead =>
    exact capRead_romKept e h
  | nromCpuWrite a d | uxromCpuWrite a d | cnromCpuWrite a d =>
    refine capWrite_romKept e h (mapCpuWrite_frame Config.cfg · a d) fun x y hy => ?_
    split at hy
    · next hm => simpa [mapCpuWrite, hm] using hy.symm
    · cases hy
  | nromPpuWrite a d | uxromPpuWrite a d | cnromPpuWrite a d =>
    refine capWrite_romKept e h (mapPpuWrite_frame Config.cfg · a d) fun x y hy => ?_
    split at hy
    · next hm => simpa [mapPpuWrite, hm] using hy.symm
    · cases hy
  -- host commands
  | hostExec => exact next_romKept e (execLoop_romKept _ _ _ h)
  | hostReset => exact next_romKept e (warmReset_romKept h)
  | hostKeyDown code => exact next_romKept e (setKey_romKept h code true)
  | hostKeyUp code => exact next_romKept e (setKey_romKept h code false)
  | hostInit => exact absurd rfl hinit
  | hostRemoveCartridge => exact absurd rfl hremove
  | hostInsertCart image => exact absurd rfl (hinsert image)
  | hostLoadSnapshot v n => exact absurd rfl (hload v n)

end RomKept

/-- Settles O52: the cartridge of the state before keeps its own ROM, and every operation in play carries that on. -/
theorem cartridgeRomIsImmutable : Obligations.CartridgeRomIsImmutable := by
  unfold Obligations.CartridgeRomIsImmutable
  intro i s s' k hinit hremove hinsert hload hk e
  obtain ⟨k', hk', hf⟩ := exec_romKept hinit hremove hinsert hload e (.of_cart hk)
  exact ⟨k', hk', hf.header, hf.prgRom, hf.chrIsRam, hf.rom⟩

end Sys2Proof.Machine

/-! PROOF. The NMI latch (R402). The latch is a field of the driver's state `m.cpu`, and almost every operation leaves all
of `m.cpu` alone, `VBL.SET` and the CPU cycle apart: `exec_cpu` says so once. What remains is one equation for the latch
for each operation that does write `m.cpu`, and the dot, whose only write of it is its flag step. -/

namespace Sys2Proof.Machine

section NmiLatch

variable {c : Cfg} {m : Mach} {s s' : State}

theorem cpu_ite {p : Prop} [Decidable p] {f : Mach → Mach} (hf : ∀ x, (f x).cpu = x.cpu) :
    (if p then f m else m).cpu = m.cpu := by
  split
  · exact hf m
  · rfl

/-! ## What leaves the driver's state alone -/

theorem patternRead_cpu (a : PpuAddr) : (patternRead c a m).2.cpu = m.cpu := by
  unfold patternRead
  split
  · rfl
  · rfl

theorem patternWrite_cpu (a : PpuAddr) (d : Byte) : (patternWrite c a d m).cpu = m.cpu := by
  unfold patternWrite
  split
  · rfl
  · rfl

theorem scrollWrite_cpu (d : Byte) : (scrollWrite d m).cpu = m.cpu := by
  unfold scrollWrite
  split
  · rfl
  · rfl

theorem addrWrite_cpu (d : Byte) : (addrWrite d m).cpu = m.cpu := by
  unfold addrWrite
  split
  · rfl
  · rfl

theorem cartRead_cpu (a : Addr) : (cartRead c a m).2.cpu = m.cpu := by
  unfold cartRead
  split
  · rfl
  · rfl

theorem cartWrite_cpu (a : Addr) (d : Byte) : (cartWrite c a d m).cpu = m.cpu := by
  unfold cartWrite
  split
  · rfl
  · rfl

theorem dotFetch_cpu (cy : Nat) : (dotFetch c cy m).cpu = m.cpu := by
  unfold dotFetch
  split
  · exact ppuRead_cpu ..
  · exact ppuRead_cpu ..
  · exact ppuRead_cpu ..
  · exact ppuRead_cpu ..
  · rfl
  · rfl

theorem dotPipeline_cpu (sl cy : Nat) : (dotPipeline c sl cy m).cpu = m.cpu :=
  (cpu_ite (f := bgDummyNt c) fun _ => ppuRead_cpu ..).trans <| (cpu_ite (f := vCopyY) fun _ => rfl).trans <|
    (cpu_ite (f := vCopyX) fun _ => rfl).trans <| (cpu_ite (f := vIncY) fun _ => rfl).trans <|
    cpu_ite (f := fun x => dotFetch c cy (bgShift x)) fun x => dotFetch_cpu (m := bgShift x) cy

theorem loadUnit_cpu (n e : Nat) : (loadUnit c n e m).cpu = m.cpu := (ppuRead_cpu ..).trans (ppuRead_cpu ..)

theorem spScan_cpu (es : List Nat) (n : Nat) (z : Bool) : (spScan c es n z m).cpu = m.cpu := by
  induction es generalizing n z m with
  | nil => rfl
  | cons e es ih =>
    unfold spScan
    split
    · split
      · exact (ih _ _).trans (loadUnit_cpu n e)
      · rfl
    · exact ih _ _

theorem dotSprites_cpu (sl cy : Nat) (r : Bool) : (dotSprites c sl cy r m).cpu = m.cpu := by
  unfold dotSprites
  split
  · split
    · exact spScan_cpu ..
    · rfl
  · rfl

theorem dotPosition_cpu (m : Mach) : (dotPosition m).cpu = m.cpu := by
  obtain ⟨sl, cy, f, e⟩ := dotPosition_eq_setPpu m
  rw [e]
  rfl

theorem posAdvance_cpu (m : Mach) : (posAdvance m).cpu = m.cpu := by
  unfold posAdvance
  dsimp only
  split
  · rfl
  · split
    · rfl
    · rfl

theorem dmaWrite_cpu (m : Mach) : (dmaWrite m).cpu = m.cpu := by
  unfold dmaWrite
  dsimp only
  split
  · rfl
  · rfl

theorem setKey_cpu (code : Byte) (v : Bool) : (setKey code v m).cpu = m.cpu := by
  unfold setKey
  split
  · rfl
  · exact Mach.setPad_cpu ..

/-- An insertion, successful or not, touches the cartridge at most (R330). -/
theorem insertCart_cpu (image : List Byte) : (insertCart c image m).2.cpu = m.cpu := by
  unfold insertCart fail
  dsimp only
  repeat' split
  all_goals rfl

/-! ## The outcomes of operations -/

theorem next_cpu {t : State} (e : (.next t : Host.Outcome State Fault Refusal) = .next s')
    (h : t.machine.cpu = s.machine.cpu) : s'.machine.cpu = s.machine.cpu := by
  cases e; exact h

theorem capRead_cpu {f : Cartridge → Option (Option Byte)} (e : capRead s f = .next s') :
    s'.machine.cpu = s.machine.cpu := by
  unfold capRead at e
  split at e
  · cases e
  · split at e
    · cases e
    · exact next_cpu e rfl

theorem capWrite_cpu {f : Cartridge → Option Cartridge} (e : capWrite s f = .next s') :
    s'.machine.cpu = s.machine.cpu := by
  unfold capWrite at e
  split at e
  · cases e
  · split at e
    · cases e
    · exact next_cpu e rfl

/-- The operations that can write the driver's state: `VBL.SET` through `AssertNmi` (R402), the burn and the core step
(R382, R387), and the host commands that replace, clear or run the Machine. -/
def writesCpu : Instr → Bool
  | .vblSet | .cpuBurn | .cpuStep | .hostInit | .hostReset | .hostExec _ | .hostLoadSnapshot _ _ => true
  | _ => false

/-- Every other operation leaves the driver's state as it is. -/
theorem exec_cpu {i : Instr} (hi : writesCpu i = false) (e : exec i s = .next s') :
    s'.machine.cpu = s.machine.cpu := by
  cases i with
  | vblSet | cpuBurn | cpuStep | hostInit | hostReset | hostExec | hostLoadSnapshot => cases hi
  -- register and memory accesses without a branch
  | ramRd | ramWr | ppuRegRdOpen | ppuCtrlWr | ppuMaskWr | ppuStatusRd | ppuStatusWr | oamAddrWr | oamDataRd
  | oamDataWr | oamDmaRd | oamDmaWr | apuRd | apuWr | joy1Rd | joyStrobe | joy2Rd | apu4017Wr | ioUnmappedRd
  | ioUnmappedWr | paletteRd | paletteWr | nametableRd | nametableWr
  | flagsClr | pixel | bgShift | bgReload | vIncX | vIncY | vCopyX | vCopyY | spClear | posSkip
  | dmaStart | dmaWait | mirrorMode | irqPending
  | hostDiscard | hostPadMask | hostDisplayInfo | hostSaveSnapshot | hostRemoveCartridge => exact next_cpu e rfl
  -- the CPU-side bus
  | ppuScrollWr _ d => exact next_cpu e (scrollWrite_cpu d)
  | ppuAddrWr _ d => exact next_cpu e (addrWrite_cpu d)
  | ppuDataRd => exact next_cpu e (dataRead_busFrame _ _).cpu
  | ppuDataWr _ d => exact next_cpu e (dataWrite_busFrame _ d _).cpu
  | cartRd a => exact next_cpu e (cartRead_cpu a)
  | cartWr a d => exact next_cpu e (cartWrite_cpu a d)
  -- the PPU-side bus
  | patternRd a => exact next_cpu e (patternRead_cpu a)
  | patternWr a d => exact next_cpu e (patternWrite_cpu a d)
  -- dots
  | bgFetchNt | bgFetchAt | bgFetchLo | bgFetchHi | bgDummyNt => exact next_cpu e (ppuRead_cpu ..)
  | spLoad => exact next_cpu e (spScan_cpu ..)
  | posAdvance => exact next_cpu e (posAdvance_cpu _)
  -- CPU cycles
  | dmaRead => exact next_cpu e (busRead_frame ..).cpu
  | dmaWrite => exact next_cpu e (dmaWrite_cpu _)
  -- capabilities called alone
  | nromCpuRead | nromPpuRead | uxromCpuRead | uxromPpuRead | cnromCpuRead | cnromPpuRead => exact capRead_cpu e
  | nromCpuWrite | nromPpuWrite | uxromCpuWrite | uxromPpuWrite | cnromCpuWrite | cnromPpuWrite =>
    exact capWrite_cpu e
  -- host commands
  | hostKeyDown code => exact next_cpu e (setKey_cpu code true)
  | hostKeyUp code => exact next_cpu e (setKey_cpu code false)
  | hostInsertCart image => exact next_cpu e (insertCart_cpu image)

/-! ## The latch after what does write the driver's state -/

theorem vblSet_nmiPending (m : Mach) :
    (vblSet m).cpu.nmiPending = (m.cpu.nmiPending || ctrlNmiEnable m.ppu.ctrl) := by
  unfold vblSet
  dsimp only
  split
  · next h => simp [h]
  · next h => simp [h]

theorem nmiAfter_coreInput (m : Mach) : nmiAfter (coreInput m) m.cpu.nmiPending = false := by
  cases h : m.cpu.nmiPending <;> simp [nmiAfter, coreInput, h]

/-- A core step clears the latch it was shown, and its bus accesses do not raise it (R395). -/
theorem cpuStep_nmiPending (c : Cfg) (m : Mach) : (cpuStep c m).cpu.nmiPending = false := by
  have hr : (runProg c (coreStep c.core m.core (coreInput m)) m).2.cpu = m.cpu := (runProg_frame ..).cpu
  show nmiAfter (coreInput m) (runProg c (coreStep c.core m.core (coreInput m)) m).2.cpu.nmiPending = false
  rw [hr, nmiAfter_coreInput]

/-- A reset clears the latch, and the accesses of the reset sequence do not raise it (R511). -/
theorem warmReset_nmiPending (c : Cfg) (m : Mach) : (warmReset c m).cpu.nmiPending = false :=
  congrArg Cpu.nmiPending (runProg_frame c (c.core.reset m.core) (resetClear c m)).cpu

theorem nmiPending_of_cpuCycle (h : (cpuCycle c m).cpu.nmiPending = true) : m.cpu.nmiPending = true := by
  change (cycleWork c (cycleStart c m)).cpu.nmiPending = true at h
  unfold cycleWork at h
  split at h
  · exact h
  · split at h
    · rwa [dmaCycle_cpu] at h
    · rw [cpuStep_nmiPending] at h
      cases h

theorem dotFlags_nmiPending (sl cy : Nat) (m : Mach) : (dotFlags sl cy m).cpu.nmiPending =
    (m.cpu.nmiPending || (decide (sl = 241 ∧ cy = 1) && ctrlNmiEnable m.ppu.ctrl)) := by
  have hclr : (dotFlags sl cy m).cpu = (if sl = 241 ∧ cy = 1 then vblSet m else m).cpu :=
    cpu_ite (f := flagsClr) fun _ => rfl
  rw [hclr]
  split
  · next h => simp [vblSet_nmiPending, h]
  · next h => simp [h]

/-- After its flag step a dot leaves the driver's state alone. -/
theorem ppuTick_cpu (c : Cfg) (m : Mach) :
    (ppuTick c m).cpu = (dotFlags m.ppu.scanline m.ppu.cycle m).cpu :=
  calc (ppuTick c m).cpu
    _ = (dotWork c m).cpu := dotPosition_cpu _
    _ = _ := (dotSprites_cpu ..).trans (cpu_ite fun _ => dotPipeline_cpu ..)
    _ = (dotFlags m.ppu.scanline m.ppu.cycle m).cpu := cpu_ite (f := pixel c) fun _ => rfl

/-! ## One operation -/

/-- No operation but `VBL.SET` raises the latch (R402). -/
theorem nmiPending_of_exec {i : Instr} (hexec : ∀ t, i ≠ .hostExec t) (hload : ∀ v n, i ≠ .hostLoadSnapshot v n)
    (hvbl : i ≠ .vblSet) (e : exec i s = .next s') (h : s'.machine.cpu.nmiPending = true) :
    s.machine.cpu.nmiPending = true := by
  cases hi : writesCpu i with
  | false => rwa [exec_cpu hi e] at h
  | true =>
    unfold writesCpu at hi
    split at hi
    · exact absurd rfl hvbl
    · cases e; exact h
    · cases e; exact absurd h (by simp [cpuStep_nmiPending])
    · cases e; cases h
    · cases e; exact absurd h (by simp [warmReset_nmiPending])
    · exact absurd rfl (hexec _)
    · exact absurd rfl (hload _ _)
    · cases hi

/-- No operation withdraws a latched NMI but the core step and the commands that replace or clear the Machine. -/
theorem exec_keeps_nmiPending {i : Instr} (hexec : ∀ t, i ≠ .hostExec t) (hload : ∀ v n, i ≠ .hostLoadSnapshot v n)
    (hstep : i ≠ .cpuStep) (hinit : i ≠ .hostInit) (hreset : i ≠ .hostReset) (e : exec i s = .next s')
    (h : s.machine.cpu.nmiPending = true) : s'.machine.cpu.nmiPending = true := by
  cases hi : writesCpu i with
  | false => rwa [exec_cpu hi e]
  | true =>
    unfold writesCpu at hi
    split at hi
    · cases e; exact (vblSet_nmiPending _).trans (by simp [h])
    · cases e; exact h
    · exact absurd rfl hstep
    · exact absurd rfl hinit
    · exact absurd rfl hreset
    · exact absurd rfl (hexec _)
    · exact absurd rfl (hload _ _)
    · cases hi

end NmiLatch

/-- Settles O29: `AssertNmi` and `VBL.SET` by their definitions, the dot by its flag step, the CPU cycle by its three kinds
of work, and every other operation because it leaves the driver's state alone. -/
theorem nmiLatchIsSetByVblSetAlone : Obligations.NmiLatchIsSetByVblSetAlone := by
  unfold Obligations.NmiLatchIsSetByVblSetAlone
  refine ⟨fun m => ⟨rfl, rfl⟩, fun s => rfl, fun c m => ⟨?_, nmiPending_of_cpuCycle⟩,
    fun i s s' hexec hload e => ⟨fun hvbl => nmiPending_of_exec hexec hload hvbl e,
      fun hstep hinit hreset => exec_keeps_nmiPending hexec hload hstep hinit hreset e⟩⟩
  rw [ppuTick_cpu, dotFlags_nmiPending]

end Sys2Proof.Machine

/-! PROOF. Selectors and frames (R130 to R137). The maps of the two buses are read off their ranges
(Sys2Proof/Laws/Decode.lean); what a word selects is well formed and encodes back to that word. -/

namespace Sys2Proof

/-! ## The selected operations -/

/-- Settles O3: both maps by their ranges. -/
theorem selectorsFollowAddressMaps : Obligations.SelectorsFollowAddressMaps := by
  unfold Obligations.SelectorsFollowAddressMaps
  refine ⟨fun a d => ⟨?ram, fun lo hi => ⟨?p0, ?p1, ?p2, ?p3, ?p4, ?p5, ?p6, ?p7⟩, ?apu, ?dma, ?apu15, ?joy1, ?joy2,
    ?unmapped, ?cart⟩, fun a d => ⟨?pattern, ?nametable, ?palette⟩⟩
  case pattern | nametable | palette =>
    intros
    simp (disch := omega) only [ppuReadInstr, ppuWriteInstr, ppuRegion_ranges, if_pos, if_neg, and_self]
  all_goals
    intros
    simp (disch := omega) only [cpuReadInstr, cpuWriteInstr, cpuReadOp_ranges, cpuWriteOp_ranges, if_pos, if_neg,
      and_self]

theorem cpuReadOp_eq_dma {a : Addr} (h : cpuReadOp a = .dma) : a = 0x4014 := by
  rw [cpuReadOp_ranges] at h
  rw [addr_eq_4014_iff]
  split_ifs at h
  assumption

theorem cpuReadOp_eq_joy1 {a : Addr} (h : cpuReadOp a = .joy1) : a = 0x4016 := by
  rw [cpuReadOp_ranges] at h
  rw [addr_eq_4016_iff]
  split_ifs at h
  assumption

theorem cpuReadOp_eq_joy2 {a : Addr} (h : cpuReadOp a = .joy2) : a = 0x4017 := by
  rw [cpuReadOp_ranges] at h
  rw [addr_eq_4017_iff]
  split_ifs at h
  assumption

theorem cpuWriteOp_eq_dma {a : Addr} (h : cpuWriteOp a = .dma) : a = 0x4014 := by
  rw [cpuWriteOp_ranges] at h
  rw [addr_eq_4014_iff]
  split_ifs at h
  assumption

theorem cpuWriteOp_eq_strobe {a : Addr} (h : cpuWriteOp a = .strobe) : a = 0x4016 := by
  rw [cpuWriteOp_ranges] at h
  rw [addr_eq_4016_iff]
  split_ifs at h
  assumption

theorem cpuWriteOp_eq_apu4017 {a : Addr} (h : cpuWriteOp a = .apu4017) : a = 0x4017 := by
  rw [cpuWriteOp_ranges] at h
  rw [addr_eq_4017_iff]
  split_ifs at h
  assumption

/-! ## What is selected encodes back -/

@[simp] theorem encode_cpuReadInstr (a : Addr) : encode (cpuReadInstr a) = encCpuRd a := by
  unfold cpuReadInstr
  cases h : cpuReadOp a with
  | dma => rw [cpuReadOp_eq_dma h]; rfl
  | joy1 => rw [cpuReadOp_eq_joy1 h]; rfl
  | joy2 => rw [cpuReadOp_eq_joy2 h]; rfl
  | _ => rfl

@[simp] theorem encode_cpuWriteInstr (a : Addr) (d : Byte) : encode (cpuWriteInstr a d) = encCpuWr a d := by
  unfold cpuWriteInstr
  cases h : cpuWriteOp a with
  | dma => rw [cpuWriteOp_eq_dma h]; rfl
  | strobe => rw [cpuWriteOp_eq_strobe h]; rfl
  | apu4017 => rw [cpuWriteOp_eq_apu4017 h]; rfl
  | _ => rfl

@[simp] theorem encode_ppuReadInstr (a : PpuAddr) : encode (ppuReadInstr a) = encPpuRd a := by
  unfold ppuReadInstr
  cases ppuRegion a <;> rfl

@[simp] theorem encode_ppuWriteInstr (a : PpuAddr) (d : Byte) : encode (ppuWriteInstr a d) = encPpuWr a d := by
  unfold ppuWriteInstr
  cases ppuRegion a <;> rfl

/-! ## What is selected is well formed -/

theorem inOpenPort_iff {a : Addr} : inOpenPort a = true ↔
    0x2000 ≤ a.toNat ∧ a.toNat < 0x4000 ∧ a.toNat % 8 ≠ 2 ∧ a.toNat % 8 ≠ 4 ∧ a.toNat % 8 ≠ 7 := by
  simp only [inOpenPort, Bool.or_eq_true, inPort_iff]
  omega

theorem inApu_iff {a : Addr} : inApu a = true ↔ (0x4000 ≤ a.toNat ∧ a.toNat < 0x4014) ∨ a.toNat = 0x4015 := by
  simp [inApu]

theorem inUnmapped_iff {a : Addr} : inUnmapped a = true ↔ 0x4018 ≤ a.toNat ∧ a.toNat < 0x4020 := by
  simp [inUnmapped]

theorem inNametable_iff {a : PpuAddr} : inNametable a = true ↔ 0x2000 ≤ a.toNat ∧ a.toNat < 0x3F00 := by
  simp [inNametable]

theorem cpuReadInstr_wellFormed (a : Addr) : (cpuReadInstr a).wellFormed = true := by
  unfold cpuReadInstr
  rw [cpuReadOp_ranges]
  split_ifs <;>
    simp only [Instr.wellFormed, inRam, inCart, inPort_iff, inOpenPort_iff, inApu_iff, inUnmapped_iff,
      decide_eq_true_eq] <;> omega

theorem cpuWriteInstr_wellFormed (a : Addr) (d : Byte) : (cpuWriteInstr a d).wellFormed = true := by
  unfold cpuWriteInstr
  rw [cpuWriteOp_ranges]
  split_ifs <;>
    simp only [Instr.wellFormed, inRam, inCart, inPort_iff, inApu_iff, inUnmapped_iff, decide_eq_true_eq] <;> omega

theorem ppuReadInstr_wellFormed (a : PpuAddr) : (ppuReadInstr a).wellFormed = true := by
  unfold ppuReadInstr
  rw [ppuRegion_ranges]
  split_ifs <;> simp only [Instr.wellFormed, inPattern, inPalette, inNametable_iff, decide_eq_true_eq] <;> omega

theorem ppuWriteInstr_wellFormed (a : PpuAddr) (d : Byte) : (ppuWriteInstr a d).wellFormed = true := by
  unfold ppuWriteInstr
  rw [ppuRegion_ranges]
  split_ifs <;> simp only [Instr.wellFormed, inPattern, inPalette, inNametable_iff, decide_eq_true_eq] <;> omega

/-! ## Encoding, then decoding -/

theorem decode_encode_capCpuRead (f : Addr → Instr) (a : Addr) :
    decodeCapCpuRead f [addrLo a, addrHi a] = .ok (f a) := by
  simp [decodeCapCpuRead]

theorem decode_encode_capCpuWrite (f : Addr → Byte → Instr) (a : Addr) (d : Byte) :
    decodeCapCpuWrite f [addrLo a, addrHi a, d] = .ok (f a d) := by
  simp [decodeCapCpuWrite]

theorem ppuHi_lt (a : PpuAddr) : (ppuHi a).toNat < 0x40 := by
  have := a.isLt
  rw [ppuHi_toNat]
  omega

theorem decode_encode_capPpuRead (f : PpuAddr → Instr) (a : PpuAddr) :
    decodeCapPpuRead f [ppuLo a, ppuHi a] = .ok (f a) := by
  simp [decodeCapPpuRead, ppuHi_lt]

theorem decode_encode_capPpuWrite (f : PpuAddr → Byte → Instr) (a : PpuAddr) (d : Byte) :
    decodeCapPpuWrite f [ppuLo a, ppuHi a, d] = .ok (f a d) := by
  simp [decodeCapPpuWrite, ppuHi_lt]

/-- Settles O1: a bus operation is the one its address selects, a capability's address is put together from its bytes, a
number from its digits, and the rest is a table of ordinals. -/
theorem decodeGivesBackEncodedOperation : Obligations.DecodeGivesBackEncodedOperation := by
  unfold Obligations.DecodeGivesBackEncodedOperation
  intro i h
  cases i with
  -- CPUBUS
  | ramRd a | ppuRegRdOpen a | ppuStatusRd a | oamDataRd a | ppuDataRd a | apuRd a | ioUnmappedRd a | cartRd a =>
    refine (decode_encCpuRd a).trans (congrArg Except.ok ?_)
    simp only [Instr.wellFormed, inRam, inCart, inPort_iff, inOpenPort_iff, inApu_iff, inUnmapped_iff,
      decide_eq_true_eq] at h
    simp (disch := omega) only [cpuReadInstr, cpuReadOp_ranges, if_pos, if_neg]
  | ramWr a d | ppuCtrlWr a d | ppuMaskWr a d | ppuStatusWr a d | oamAddrWr a d | oamDataWr a d | ppuScrollWr a d
  | ppuAddrWr a d | ppuDataWr a d | apuWr a d | ioUnmappedWr a d | cartWr a d =>
    refine (decode_encCpuWr a d).trans (congrArg Except.ok ?_)
    simp only [Instr.wellFormed, inRam, inCart, inPort_iff, inApu_iff, inUnmapped_iff, decide_eq_true_eq] at h
    simp (disch := omega) only [cpuWriteInstr, cpuWriteOp_ranges, if_pos, if_neg]
  | oamDmaRd | joy1Rd | joy2Rd => rfl
  | oamDmaWr | joyStrobe | apu4017Wr => rfl
  -- PPUBUS
  | patternRd a | paletteRd a | nametableRd a =>
    refine (decode_encPpuRd a).trans (congrArg Except.ok ?_)
    simp only [Instr.wellFormed, inPattern, inPalette, inNametable_iff, decide_eq_true_eq] at h
    simp (disch := omega) only [ppuReadInstr, ppuRegion_ranges, if_pos, if_neg]
  | patternWr a d | paletteWr a d | nametableWr a d =>
    refine (decode_encPpuWr a d).trans (congrArg Except.ok ?_)
    simp only [Instr.wellFormed, inPattern, inPalette, inNametable_iff, decide_eq_true_eq] at h
    simp (disch := omega) only [ppuWriteInstr, ppuRegion_ranges, if_pos, if_neg]
  -- MAPPER
  | nromCpuRead a | uxromCpuRead a | cnromCpuRead a => exact decode_encode_capCpuRead _ a
  | nromCpuWrite a d | uxromCpuWrite a d | cnromCpuWrite a d => exact decode_encode_capCpuWrite _ a d
  | nromPpuRead a | uxromPpuRead a | cnromPpuRead a => exact decode_encode_capPpuRead _ a
  | nromPpuWrite a d | uxromPpuWrite a d | cnromPpuWrite a d => exact decode_encode_capPpuWrite _ a d
  -- HOST operands that are numbers
  | hostExec t => exact congrArg (fun n => Except.ok (Instr.hostExec n)) (natOfBytes_bytesOfNat t t (Nat.le_refl t))
  | hostLoadSnapshot v slot =>
    exact congrArg (fun n => Except.ok (Instr.hostLoadSnapshot n slot)) (natOfBytes_bytesOfNat v v (Nat.le_refl v))
  -- DOT, CPUCYC and the rest of HOST: the ordinals
  | _ => rfl

/-- A well-formed operation is the one the word of its frame selects. -/
theorem cpuReadInstr_of_encode {i : Instr} {a : Addr} (h : i.wellFormed = true) (he : encode i = encCpuRd a) :
    cpuReadInstr a = i := by
  simpa [he, decode_encCpuRd] using decodeGivesBackEncodedOperation i h

theorem cpuWriteInstr_of_encode {i : Instr} {a : Addr} {d : Byte} (h : i.wellFormed = true)
    (he : encode i = encCpuWr a d) : cpuWriteInstr a d = i := by
  simpa [he, decode_encCpuWr] using decodeGivesBackEncodedOperation i h

theorem ppuReadInstr_of_encode {i : Instr} {a : PpuAddr} (h : i.wellFormed = true) (he : encode i = encPpuRd a) :
    ppuReadInstr a = i := by
  simpa [he, decode_encPpuRd] using decodeGivesBackEncodedOperation i h

theorem ppuWriteInstr_of_encode {i : Instr} {a : PpuAddr} {d : Byte} (h : i.wellFormed = true)
    (he : encode i = encPpuWr a d) : ppuWriteInstr a d = i := by
  simpa [he, decode_encPpuWr] using decodeGivesBackEncodedOperation i h

/-! ## Whatever decodes is well formed -/

section wellFormed

variable {l : List Byte} {i : Instr}

theorem decodeCpuBus_wellFormed (h : decodeCpuBus l = .ok i) : i.wellFormed = true := by
  unfold decodeCpuBus at h
  split at h
  · split_ifs at h
    cases h
    exact cpuReadInstr_wellFormed _
  · split_ifs at h
    cases h
    exact cpuWriteInstr_wellFormed _ _
  · cases h
  · cases h

theorem decodePpuBus_wellFormed (h : decodePpuBus l = .ok i) : i.wellFormed = true := by
  unfold decodePpuBus at h
  split at h
  · split_ifs at h
    cases h
    exact ppuReadInstr_wellFormed _
  · split_ifs at h
    cases h
    exact ppuWriteInstr_wellFormed _ _
  · cases h
  · cases h

theorem decodeDot_wellFormed (h : decodeDot l = .ok i) : i.wellFormed = true := by
  unfold decodeDot at h
  split at h
  · split at h <;> cases h <;> rfl
  · cases h
  · cases h

theorem decodeCpuCyc_wellFormed (h : decodeCpuCyc l = .ok i) : i.wellFormed = true := by
  unfold decodeCpuCyc at h
  split at h
  · split at h <;> cases h <;> rfl
  · cases h
  · cases h

theorem decodeCapCpuRead_wellFormed {f : Addr → Instr} (hf : ∀ a, (f a).wellFormed = true)
    (h : decodeCapCpuRead f l = .ok i) : i.wellFormed = true := by
  unfold decodeCapCpuRead at h
  split at h
  · cases h; exact hf _
  · cases h
  · cases h

theorem decodeCapCpuWrite_wellFormed {f : Addr → Byte → Instr} (hf : ∀ a d, (f a d).wellFormed = true)
    (h : decodeCapCpuWrite f l = .ok i) : i.wellFormed = true := by
  unfold decodeCapCpuWrite at h
  split at h
  · cases h; exact hf _ _
  · cases h
  · cases h

theorem decodeCapPpuRead_wellFormed {f : PpuAddr → Instr} (hf : ∀ a, (f a).wellFormed = true)
    (h : decodeCapPpuRead f l = .ok i) : i.wellFormed = true := by
  unfold decodeCapPpuRead at h
  split at h
  · split_ifs at h
    cases h; exact hf _
  · cases h
  · cases h

theorem decodeCapPpuWrite_wellFormed {f : PpuAddr → Byte → Instr} (hf : ∀ a d, (f a d).wellFormed = true)
    (h : decodeCapPpuWrite f l = .ok i) : i.wellFormed = true := by
  unfold decodeCapPpuWrite at h
  split at h
  · split_ifs at h
    cases h; exact hf _ _
  · cases h
  · cases h

/-- An operation without operand bytes has what its name has. -/
theorem of_decodePlain {P : Instr → Prop} {j : Instr} (hj : P j) (h : decodePlain j l = .ok i) : P i := by
  unfold decodePlain at h
  split at h
  · cases h; exact hj
  · cases h

/-- An operation with one operand byte has what it has for every byte. -/
theorem of_decodeByte {P : Instr → Prop} {f : Byte → Instr} (hf : ∀ b, P (f b)) (h : decodeByte f l = .ok i) : P i := by
  unfold decodeByte at h
  split at h
  · cases h; exact hf _
  · cases h
  · cases h

theorem decodeMapper_wellFormed (h : decodeMapper l = .ok i) : i.wellFormed = true := by
  unfold decodeMapper at h
  split at h
  · cases h
  · split at h
    · exact decodeCapCpuRead_wellFormed (fun _ => rfl) h
    · exact decodeCapCpuWrite_wellFormed (fun _ _ => rfl) h
    · exact decodeCapPpuRead_wellFormed (fun _ => rfl) h
    · exact decodeCapPpuWrite_wellFormed (fun _ _ => rfl) h
    · exact decodeCapCpuRead_wellFormed (fun _ => rfl) h
    · exact decodeCapCpuWrite_wellFormed (fun _ _ => rfl) h
    · exact decodeCapPpuRead_wellFormed (fun _ => rfl) h
    · exact decodeCapPpuWrite_wellFormed (fun _ _ => rfl) h
    · exact decodeCapCpuRead_wellFormed (fun _ => rfl) h
    · exact decodeCapCpuWrite_wellFormed (fun _ _ => rfl) h
    · exact decodeCapPpuRead_wellFormed (fun _ => rfl) h
    · exact decodeCapPpuWrite_wellFormed (fun _ _ => rfl) h
    · exact of_decodePlain (P := (·.wellFormed = true)) rfl h
    · exact of_decodePlain (P := (·.wellFormed = true)) rfl h
    · cases h

/-- One of the twelve commands of the host, with any operand, in any state (R134, R440). -/
def IsCommand (i : Instr) : Prop :=
  i.wellFormed = true ∧ (encode i).head? = some fmtHost ∧ ∀ m, Machine.selected i m = true

theorem decodeHost_isCommand (h : decodeHost l = .ok i) : IsCommand i := by
  unfold decodeHost at h
  split at h
  · cases h
  · split at h
    · exact of_decodePlain ⟨rfl, rfl, fun _ => rfl⟩ h
    · exact of_decodePlain ⟨rfl, rfl, fun _ => rfl⟩ h
    · cases h; exact ⟨rfl, rfl, fun _ => rfl⟩
    · cases h; exact ⟨rfl, rfl, fun _ => rfl⟩
    · exact of_decodePlain ⟨rfl, rfl, fun _ => rfl⟩ h
    · exact of_decodePlain ⟨rfl, rfl, fun _ => rfl⟩ h
    · exact of_decodeByte (fun _ => ⟨rfl, rfl, fun _ => rfl⟩) h
    · exact of_decodeByte (fun _ => ⟨rfl, rfl, fun _ => rfl⟩) h
    · exact of_decodePlain ⟨rfl, rfl, fun _ => rfl⟩ h
    · exact of_decodePlain ⟨rfl, rfl, fun _ => rfl⟩ h
    · exact of_decodeByte (fun _ => ⟨rfl, rfl, fun _ => rfl⟩) h
    · split at h
      · cases h
      · cases h; exact ⟨rfl, rfl, fun _ => rfl⟩
    · cases h

end wellFormed

/-- Settles O2: format by format; the two buses by the ranges of their maps. -/
theorem decodeYieldsWellFormedOperation : Obligations.DecodeYieldsWellFormedOperation := by
  unfold Obligations.DecodeYieldsWellFormedOperation
  intro f i h
  unfold decode at h
  split at h
  · cases h
  · split at h
    · exact decodeCpuBus_wellFormed h
    · exact decodePpuBus_wellFormed h
    · exact decodeDot_wellFormed h
    · exact decodeCpuCyc_wellFormed h
    · exact decodeMapper_wellFormed h
    · exact (decodeHost_isCommand h).1
    · cases h

/-! ## The words of the opcode table -/

theorem natOfBytes_encCpuRd (a : Addr) : natOfBytes (((encCpuRd a).drop 1).take 3) = a.toNat := by
  have := a.isLt
  simp [encCpuRd, natOfBytes, addrLo, addrHi, Nat.shiftRight_eq_div_pow]
  omega

theorem natOfBytes_encCpuWr (a : Addr) (d : Byte) :
    natOfBytes (((encCpuWr a d).drop 1).take 3) = 2 ^ 16 + a.toNat := by
  have := a.isLt
  simp [encCpuWr, natOfBytes, addrLo, addrHi, Nat.shiftRight_eq_div_pow]
  omega

theorem natOfBytes_encPpuRd (a : PpuAddr) : natOfBytes (((encPpuRd a).drop 1).take 2) = a.toNat := by
  have := a.isLt
  simp [encPpuRd, natOfBytes, ppuLo, ppuHi_toNat]
  omega

theorem ppuHi_or_dir_toNat (a : PpuAddr) : (ppuHi a ||| 0x40#8).toNat = a.toNat / 256 + 64 := by
  have := a.isLt
  have e := Nat.two_pow_add_eq_or_of_lt (show a.toNat / 256 < 2 ^ 6 by omega) 1
  rw [BitVec.toNat_or, ppuHi_toNat, Nat.or_comm, Nat.add_comm]
  exact e.symm

theorem natOfBytes_encPpuWr (a : PpuAddr) (d : Byte) :
    natOfBytes (((encPpuWr a d).drop 1).take 2) = 2 ^ 14 + a.toNat := by
  have := a.isLt
  simp [encPpuWr, natOfBytes, ppuLo, -BitVec.toNat_or, ppuHi_or_dir_toNat]
  omega

theorem decodeTableWord_eq_some {n w : Nat} {i : Instr} (h : decode (tableFrame n w) = .ok i) :
    decodeTableWord n w = some i := by
  simp [decodeTableWord, h]

theorem decodeTableWord_eq_none {n w : Nat} {e : DecodeError} (h : decode (tableFrame n w) = .error e) :
    decodeTableWord n w = none := by
  simp [decodeTableWord, h]

theorem addrLo_ofNat (w : Nat) : addrLo (BitVec.ofNat 16 w) = BitVec.ofNat 8 w := by
  apply BitVec.eq_of_toNat_eq
  simp [addrLo]

theorem addrHi_ofNat (w : Nat) : addrHi (BitVec.ofNat 16 w) = BitVec.ofNat 8 (w / 256) := by
  apply BitVec.eq_of_toNat_eq
  simp [addrHi, Nat.shiftRight_eq_div_pow]
  omega

theorem ppuLo_ofNat (w : Nat) : ppuLo (BitVec.ofNat 14 w) = BitVec.ofNat 8 w := by
  apply BitVec.eq_of_toNat_eq
  simp [ppuLo]

/-- A CPUBUS word with `dir` = 0 is the frame of a read. -/
theorem tableFrame_cpuRd {w : Nat} (h : w < 2 ^ 16) : tableFrame 24 w = encCpuRd (BitVec.ofNat 16 w) := by
  have e : w / 65536 = 0 := by omega
  simp [tableFrame, encCpuRd, addrLo_ofNat, addrHi_ofNat, Nat.testBit_lt_two_pow h, e]

/-- A CPUBUS word with `dir` = 1 is the frame of a write of 0. -/
theorem tableFrame_cpuWr {w : Nat} (h : 2 ^ 16 ≤ w) (h' : w < 2 ^ 17) :
    tableFrame 24 w = encCpuWr (BitVec.ofNat 16 w) 0 := by
  have e : w / 65536 = 1 := by omega
  simp [tableFrame, encCpuWr, addrLo_ofNat, addrHi_ofNat,
    Nat.testBit_of_two_pow_le_and_two_pow_add_one_gt h h', e]

/-- A PPUBUS word with `dir` = 0 is the frame of a read. -/
theorem tableFrame_ppuRd {w : Nat} (h : w < 2 ^ 14) : tableFrame 16 w = encPpuRd (BitVec.ofNat 14 w) := by
  have e : ppuHi (BitVec.ofNat 14 w) = BitVec.ofNat 8 (w / 256) := by
    apply BitVec.eq_of_toNat_eq
    rw [ppuHi_toNat]
    simp
    omega
  simp [tableFrame, encPpuRd, ppuLo_ofNat, e, Nat.testBit_lt_two_pow h]

/-- A PPUBUS word with `dir` = 1 is the frame of a write of 0. -/
theorem tableFrame_ppuWr {w : Nat} (h : 2 ^ 14 ≤ w) (h' : w < 2 ^ 15) :
    tableFrame 16 w = encPpuWr (BitVec.ofNat 14 w) 0 := by
  have e : ppuHi (BitVec.ofNat 14 w) ||| 0x40#8 = BitVec.ofNat 8 (w / 256) := by
    apply BitVec.eq_of_toNat_eq
    rw [ppuHi_or_dir_toNat]
    simp
    omega
  simp [tableFrame, encPpuWr, ppuLo_ofNat, e,
    Nat.testBit_of_two_pow_le_and_two_pow_add_one_gt h h']

/-- Settles O4: such a word is the frame of a bus access, whose decoding and encoding are known; a higher bit stays in
the frame's last selector byte, where the decoder refuses it. -/
theorem everyBusWordSelectsOneOperation : Obligations.EveryBusWordSelectsOneOperation := by
  unfold Obligations.EveryBusWordSelectsOneOperation
  refine ⟨fun w hw => ?_, fun w h hw => ?_, fun w hw => ?_, fun w h hw => ?_⟩
  · rcases Nat.lt_or_ge w (2 ^ 16) with h | h
    · refine ⟨cpuReadInstr (BitVec.ofNat 16 w), decodeTableWord_eq_some ?_, cpuReadInstr_wellFormed _, ?_⟩
      · rw [tableFrame_cpuRd h, decode_encCpuRd]
      · rw [encode_cpuReadInstr, natOfBytes_encCpuRd, BitVec.toNat_ofNat]
        omega
    · refine ⟨cpuWriteInstr (BitVec.ofNat 16 w) 0, decodeTableWord_eq_some ?_, cpuWriteInstr_wellFormed _ _, ?_⟩
      · rw [tableFrame_cpuWr h hw, decode_encCpuWr]
      · rw [encode_cpuWriteInstr, natOfBytes_encCpuWr, BitVec.toNat_ofNat]
        omega
  · have h0 : BitVec.ofNat 8 (w / 65536) ≠ 0#8 := by
      rw [Ne, BitVec.toNat_eq, BitVec.toNat_ofNat]; simp; omega
    have h1 : BitVec.ofNat 8 (w / 65536) ≠ 1#8 := by
      rw [Ne, BitVec.toNat_eq, BitVec.toNat_ofNat]; simp; omega
    refine decodeTableWord_eq_none (e := .reservedBits) ?_
    cases hb : w.testBit 16 with
    | false => simp [tableFrame, hb, decode, fmtCpuBus, decodeCpuBus, h0, h1]
    | true => simp [tableFrame, hb, decode, fmtCpuBus, decodeCpuBus, h0, h1]
  · rcases Nat.lt_or_ge w (2 ^ 14) with h | h
    · refine ⟨ppuReadInstr (BitVec.ofNat 14 w), decodeTableWord_eq_some ?_, ppuReadInstr_wellFormed _, ?_⟩
      · rw [tableFrame_ppuRd h, decode_encPpuRd]
      · rw [encode_ppuReadInstr, natOfBytes_encPpuRd, BitVec.toNat_ofNat]
        omega
    · refine ⟨ppuWriteInstr (BitVec.ofNat 14 w) 0, decodeTableWord_eq_some ?_, ppuWriteInstr_wellFormed _ _, ?_⟩
      · rw [tableFrame_ppuWr h hw, decode_encPpuWr]
      · rw [encode_ppuWriteInstr, natOfBytes_encPpuWr, BitVec.toNat_ofNat]
        omega
  · have h7 : (BitVec.ofNat 8 (w / 256)).getLsbD 7 = true := by
      rw [BitVec.getLsbD_ofNat]
      simpa using Nat.testBit_of_two_pow_le_and_two_pow_add_one_gt (show 2 ^ 7 ≤ w / 256 by omega) (by omega)
    refine decodeTableWord_eq_none (e := .reservedBits) ?_
    cases hb : w.testBit 14 with
    | false => simp [tableFrame, hb, decode, fmtPpuBus, decodePpuBus, h7]
    | true => simp [tableFrame, hb, decode, fmtPpuBus, decodePpuBus, h7]

/-- Settles O5, by evaluation. -/
theorem specWordsDecodeToTheirOperations : Obligations.SpecWordsDecodeToTheirOperations := by
  unfold Obligations.SpecWordsDecodeToTheirOperations
  decide

end Sys2Proof

/-! PROOF. Steps (R440 to R442, R490). A step takes one frame, and what it then does is `exec` of one operation. The
invariants of R41 are kept by each access of the two buses (Sys2Proof/Laws/Legal.lean), so a bus operation goes through
the access its address selects (R181, R182, R250, R251); the others are gone through format by format. -/

namespace Sys2Proof.Machine

/-! ## A bus operation is the access of its address -/

section bus

variable (d : Byte) (s : State)

theorem exec_cpuReadInstr (a : Addr) : exec (cpuReadInstr a) s =
    .next (s.answer (.byte (busRead Config.cfg a s.machine).1) (busRead Config.cfg a s.machine).2) := by
  unfold cpuReadInstr busRead readTarget
  cases h : cpuReadOp a with
  | dma => rw [cpuReadOp_eq_dma h]; rfl
  | joy1 => rw [cpuReadOp_eq_joy1 h]; rfl
  | joy2 => rw [cpuReadOp_eq_joy2 h]; rfl
  | _ => rfl

theorem exec_cpuWriteInstr (a : Addr) :
    exec (cpuWriteInstr a d) s = .next (s.answer .none (busWrite Config.cfg a d s.machine)) := by
  unfold cpuWriteInstr busWrite writeTarget
  cases h : cpuWriteOp a with
  | dma => rw [cpuWriteOp_eq_dma h]; rfl
  | strobe => rw [cpuWriteOp_eq_strobe h]; rfl
  | apu4017 => rw [cpuWriteOp_eq_apu4017 h]; rfl
  | _ => rfl

theorem exec_ppuReadInstr (a : PpuAddr) : exec (ppuReadInstr a) s =
    .next (s.answer (.byte (ppuRead Config.cfg a s.machine).1) (ppuRead Config.cfg a s.machine).2) := by
  unfold ppuReadInstr ppuRead
  cases ppuRegion a <;> rfl

theorem exec_ppuWriteInstr (a : PpuAddr) :
    exec (ppuWriteInstr a d) s = .next (s.answer .none (ppuWrite Config.cfg a d s.machine)) := by
  unfold ppuWriteInstr ppuWrite
  cases ppuRegion a <;> rfl

end bus

/-! ## What a step does with a frame -/

section step

variable {s : State} {f : List Byte} {rest : List (List Byte)} {i : Instr} {e : DecodeError}

theorem admitted_iff : admitted i s = true ↔ s.alive = true ∨ i = .hostInit := by
  simp [admitted]

theorem not_admitted (ha : s.alive = false) (hi : i ≠ .hostInit) : admitted i s = false := by
  simp [admitted, ha, hi]

theorem takeRequest_eq (hr : s.requests = f :: rest) : s.takeRequest = { s with requests := rest } := by
  simp [State.takeRequest, hr]

theorem step_bench (hb : s.bench = some f) : step s = runBench f s := by
  simp [step, hb]

theorem step_request (hb : s.bench = none) (hr : s.requests = f :: rest) : step s = runRequest f s := by
  simp [step, hb, hr]

theorem step_idle (hb : s.bench = none) (hr : s.requests = []) : step s = .next s := by
  simp [step, hb, hr]

end step

/-- Settles O6. -/
theorem stepExecutesOldestRequest : Obligations.StepExecutesOldestRequest := by
  unfold Obligations.StepExecutesOldestRequest
  refine ⟨fun s f rest i hb hr hd ha => ?_, fun s f i hb hd ha hs => ?_⟩
  · rw [step_request hb hr, ← takeRequest_eq hr]
    simp [runRequest, hd, admitted_iff.mpr ha]
  · rw [step_bench hb]
    simp [runBench, hd, admitted_iff.mpr ha, hs]
    rfl

/-! ## The bench stays as it is -/

/-- Where a capability read completes, it changes the answer only. -/
theorem capRead_answers {s t : State} {f : Cartridge → Option (Option Byte)} (e : capRead s f = .next t) :
    t = s.answer t.result t.machine := by
  unfold capRead at e
  split at e
  · cases e
  · split at e
    · cases e
    · cases e; rfl

/-- Where a capability write completes, it changes the answer and the Machine only. -/
theorem capWrite_answers {s t : State} {f : Cartridge → Option Cartridge} (e : capWrite s f = .next t) :
    t = s.answer t.result t.machine := by
  unfold capWrite at e
  split at e
  · cases e
  · split at e
    · cases e
    · cases e; rfl

/-- Where a load completes, it changes the answer and the Machine only. -/
theorem loadSnapshot_answers {s t : State} {v : Nat} {slot : Byte} (e : execHostLoadSnapshot v slot s = .next t) :
    t = s.answer t.result t.machine := by
  unfold execHostLoadSnapshot at e
  split at e
  · split at e
    · cases e
    · cases e; rfl
  · cases e; rfl

/-- No operation puts anything on the bench (log 2). -/
theorem exec_bench {i : Instr} {s t : State} (e : exec i s = .next t) : t.bench = s.bench := by
  cases i with
  | nromCpuRead | nromPpuRead | uxromCpuRead | uxromPpuRead | cnromCpuRead | cnromPpuRead =>
    rw [capRead_answers e]
    rfl
  | nromCpuWrite | nromPpuWrite | uxromCpuWrite | uxromPpuWrite | cnromCpuWrite | cnromPpuWrite =>
    rw [capWrite_answers e]
    rfl
  | hostLoadSnapshot =>
    rw [loadSnapshot_answers e]
    rfl
  | _ => cases e; rfl

theorem step_keeps_empty_bench {s t : State} (hb : s.bench = none) (h : step s = .next t) : t.bench = none := by
  obtain ⟨-, -, rfl⟩ | ⟨f, -, hf, -⟩ | ⟨f, rest, e, -, -, -, rfl⟩ | ⟨f, i, hf, -⟩ | ⟨f, rest, i, -, -, -, -, e⟩ :=
    step_cases h
  · exact hb
  · rw [hb] at hf; cases hf
  · exact hb
  · rw [hb] at hf; cases hf
  · rw [exec_bench e]; exact hb

theorem decodeCommand_ok {f : List Byte} {i : Instr} (h : decodeCommand f = .ok i) :
    IsCommand i ∧ decode f = .ok i := by
  unfold decodeCommand at h
  split at h
  · cases h
  · split_ifs at h with hf
    subst hf
    exact ⟨decodeHost_isCommand h, h⟩

/-- Settles O7: the branches of a step, each by what its frame decodes to. -/
theorem stepWithoutRequestAndStops : Obligations.StepWithoutRequestAndStops := by
  unfold Obligations.StepWithoutRequestAndStops
  refine ⟨fun s => step_idle, fun f i h => ?_, fun s t => step_keeps_empty_bench, fun s f rest e hb hr hd => ?_,
    fun s f e hb hd => ?_, fun s f rest i hb hr hd ha hi => ?_, fun s f i hb hd ha hi => ?_,
    fun s f i hb hd ha hs => ?_⟩
  · obtain ⟨⟨-, hhead, -⟩, hd⟩ := decodeCommand_ok h
    exact ⟨hhead, hd⟩
  · simp [step_request hb hr, runRequest, hd, takeRequest_eq hr, State.ignored]
  · simp [step_bench hb, runBench, hd, State.takeBench, State.ignored]
  · simp [step_request hb hr, runRequest, hd, not_admitted ha hi]
  · simp [step_bench hb, runBench, hd, not_admitted ha hi]
  · simp [step_bench hb, runBench, hd, admitted_iff.mpr (.inl ha), hs]

/-! ## Legality -/

section legal

variable {c : Cfg} {m : Mach} {s t : State}

theorem burnRest_legal (hc : Adequate c) (fuel n : Nat) (h : MachLegal c m) : MachLegal c (burnRest c fuel n m).2 := by
  induction fuel generalizing n m with
  | zero => exact h
  | succ fuel ih =>
    unfold burnRest
    split
    · exact h
    · exact ih _ (machineCycle_legal hc h)

theorem runUnit_legal (hc : Adequate c) (h : MachLegal c m) : MachLegal c (runUnit c m).2 :=
  burnRest_legal hc _ _ (machineCycle_legal hc h)

theorem execLoop_legal (hc : Adequate c) (budget fuel ticks : Nat) (h : MachLegal c m) :
    MachLegal c (execLoop c budget fuel ticks m).2 := by
  induction fuel generalizing ticks m with
  | zero => exact h
  | succ fuel ih =>
    rw [execLoop_succ]
    split
    · exact ih _ (runUnit_legal hc h)
    · exact h

theorem mem_storeSnapshot {slot : Nat} {x : Snapshot} {l : List (Nat × Snapshot)} {e : Nat × Snapshot}
    (h : e ∈ storeSnapshot slot x l) : e.2 = x ∨ e ∈ l := by
  induction l with
  | nil => simp [storeSnapshot] at h; simp [h]
  | cons y l ih =>
    unfold storeSnapshot at h
    split_ifs at h
    · rcases List.mem_cons.mp h with rfl | h
      · exact .inl rfl
      · exact .inr h
    · rcases List.mem_cons.mp h with rfl | h
      · exact .inl rfl
      · exact .inr (List.mem_cons_of_mem _ h)
    · rcases List.mem_cons.mp h with rfl | h
      · exact .inr List.mem_cons_self
      · exact (ih h).imp_right (List.mem_cons_of_mem _)

theorem mem_of_findSnapshot {slot : Nat} {x : Snapshot} {l : List (Nat × Snapshot)} (h : findSnapshot slot l = some x) :
    ∃ k, (k, x) ∈ l := by
  induction l with
  | nil => cases h
  | cons y l ih =>
    unfold findSnapshot at h
    split_ifs at h
    · cases h; exact ⟨_, List.mem_cons_self⟩
    · obtain ⟨k, hk⟩ := ih h
      exact ⟨k, List.mem_cons_of_mem _ hk⟩

/-- An outcome that leaves a legal Machine and the saved images. -/
theorem Legal.next {t' : State} (h : Legal s) (e : (.next t' : Host.Outcome State Fault Refusal) = .next t)
    (hm : MachLegal Config.cfg t'.machine) (hs : t'.snapshots = s.snapshots) : Legal t := by
  cases e
  exact ⟨hm, hs ▸ h.snapshots⟩

theorem capRead_legal {f : Cartridge → Option (Option Byte)} (h : Legal s) (e : capRead s f = .next t) : Legal t := by
  unfold capRead at e
  split at e
  · cases e
  · split at e
    · cases e
    · exact h.next e h.machine rfl

/-- A capability write called alone stores what the capability call `g` of any variant would. -/
theorem capWrite_legal {f : Cartridge → Option Cartridge} {g : Cartridge → Cartridge} (h : Legal s)
    (e : capWrite s f = .next t) (hg : ∀ k, CartLegal Config.cfg k → CartLegal Config.cfg (g k))
    (hf : ∀ x y, f x = some y → y = g x) : Legal t := by
  unfold capWrite at e
  split at e
  · cases e
  · next x hx =>
    split at e
    · cases e
    · next y hy =>
      rw [hf x y hy] at e
      exact h.next e (h.machine.setCartSome (hg x (h.machine.cart x hx))) rfl

theorem cpuWriteInstr_dma {a : Addr} {d : Byte} (ha : cpuWriteOp a = .dma)
    (hs : selected (cpuWriteInstr a d) m = true) : m.dma.active = false := by
  simpa [cpuWriteInstr, ha, selected] using hs

/-- A selected bus write finds the DMA engine at rest if it triggers it (R191). -/
theorem busWrite_legal_of_selected (hc : Adequate c) (h : MachLegal c m) {a : Addr} {d : Byte}
    (hs : selected (cpuWriteInstr a d) m = true) : MachLegal c (busWrite c a d m) :=
  writeTarget_legal hc (h.setOpenBus d) a d fun ha => cpuWriteInstr_dma ha hs

theorem saveSnapshot_legal {slot : Byte} (h : Legal s) (e : execHostSaveSnapshot slot s = .next t) : Legal t := by
  cases e
  refine ⟨h.machine, fun x hx => ?_⟩
  rcases mem_storeSnapshot hx with e | hx
  · rw [e]; exact h.machine
  · exact h.snapshots x hx

theorem loadSnapshot_legal {v : Nat} {slot : Byte} (h : Legal s) (e : execHostLoadSnapshot v slot s = .next t) :
    Legal t := by
  unfold execHostLoadSnapshot at e
  split at e
  · split at e
    · cases e
    · next x hx =>
      obtain ⟨k, hk⟩ := mem_of_findSnapshot hx
      exact h.next e (h.snapshots _ hk) rfl
  · exact h.next e h.machine rfl

/-- Every operation that its selector picks keeps legality. -/
theorem exec_legal {i : Instr} (h : Legal s) (hw : i.wellFormed = true) (hs : selected i s.machine = true)
    (e : exec i s = .next t) : Legal t := by
  have hm := h.machine
  have hc := adequate_cfg
  cases i with
  -- CPUBUS
  | ramRd | ppuRegRdOpen | ppuStatusRd | oamDataRd | ppuDataRd | oamDmaRd | apuRd | joy1Rd | joy2Rd | ioUnmappedRd
  | cartRd =>
    rw [← cpuReadInstr_of_encode hw rfl, exec_cpuReadInstr] at e
    exact h.next e (busRead_legal hm _) rfl
  | ramWr | ppuCtrlWr | ppuMaskWr | ppuStatusWr | oamAddrWr | oamDataWr | ppuScrollWr | ppuAddrWr | ppuDataWr
  | oamDmaWr | apuWr | joyStrobe | apu4017Wr | ioUnmappedWr | cartWr =>
    rw [← cpuWriteInstr_of_encode hw rfl] at hs e
    rw [exec_cpuWriteInstr] at e
    exact h.next e (busWrite_legal_of_selected hc hm hs) rfl
  -- PPUBUS
  | patternRd | paletteRd | nametableRd =>
    rw [← ppuReadInstr_of_encode hw rfl, exec_ppuReadInstr] at e
    exact h.next e (ppuRead_legal hm _) rfl
  | patternWr | paletteWr | nametableWr =>
    rw [← ppuWriteInstr_of_encode hw rfl, exec_ppuWriteInstr] at e
    exact h.next e (ppuWrite_legal hc hm _ _) rfl
  -- DOT
  | vblSet => exact h.next e (vblSet_legal hm) rfl
  | flagsClr => exact h.next e (flagsClr_legal hm) rfl
  | pixel =>
    simp only [selected, Bool.and_eq_true, decide_eq_true_eq] at hs
    exact h.next e (pixel_legal hc hm hs.1.1 hs.1.2 hs.2) rfl
  | bgFetchNt | bgDummyNt => exact h.next e (dotFetch_legal hm 1) rfl
  | bgFetchAt => exact h.next e (dotFetch_legal hm 3) rfl
  | bgFetchLo => exact h.next e (dotFetch_legal hm 5) rfl
  | bgFetchHi => exact h.next e (dotFetch_legal hm 7) rfl
  | bgShift | bgReload | vIncX | vIncY | vCopyX | vCopyY =>
    exact h.next e (hm.setPorts ⟨rfl, rfl, rfl, rfl, rfl, rfl, rfl, rfl, rfl⟩) rfl
  | spLoad => exact h.next e (spScan_legal _ (Nat.zero_le _) _ hm) rfl
  | spClear => exact h.next e (setSprites_legal hm (Nat.zero_le _) _) rfl
  | posAdvance =>
    have hp : dotPosition s.machine = posAdvance s.machine :=
      if_neg fun hskip => by simp [selected, skipDot, hskip] at hs
    exact h.next e (hp ▸ dotPosition_legal hm) rfl
  | posSkip =>
    have hp : dotPosition s.machine = posSkip s.machine :=
      if_pos (by simpa [selected, skipDot, and_assoc] using hs)
    exact h.next e (hp ▸ dotPosition_legal hm) rfl
  -- CPUCYC
  | cpuBurn => exact h.next e (hm.setCpu _) rfl
  | cpuStep =>
    simp only [selected, Bool.and_eq_true, Bool.not_eq_true'] at hs
    exact h.next e (cpuStep_legal hc hm hs.2) rfl
  | dmaStart => exact h.next e (dmaStart_legal hm) rfl
  | dmaWait => exact h.next e (dmaWait_legal hm) rfl
  | dmaRead => exact h.next e (dmaRead_legal hm) rfl
  | dmaWrite => exact h.next e (dmaWrite_legal hm) rfl
  -- MAPPER
  | nromCpuRead | nromPpuRead | uxromCpuRead | uxromPpuRead | cnromCpuRead | cnromPpuRead => exact capRead_legal h e
  | nromCpuWrite a d | uxromCpuWrite a d | cnromCpuWrite a d =>
    refine capWrite_legal h e (fun _ hk => mapCpuWrite_legal hc.prgRam hk a d) fun x y hy => ?_
    split at hy
    · next hx => simpa [mapCpuWrite, hx] using hy.symm
    · cases hy
  | nromPpuWrite a d | uxromPpuWrite a d | cnromPpuWrite a d =>
    refine capWrite_legal h e (fun _ hk => mapPpuWrite_legal hk a d) fun x y hy => ?_
    split at hy
    · next hx => simpa [mapPpuWrite, hx] using hy.symm
    · cases hy
  -- queries and host commands that leave the Machine alone
  | mirrorMode | irqPending | hostDiscard | hostPadMask | hostDisplayInfo => exact h.next e hm rfl
  -- the other host commands
  | hostInit => exact h.next e (powerOn_legal _) rfl
  | hostExec => exact h.next e (execLoop_legal hc _ _ _ hm) rfl
  | hostInsertCart image => exact h.next e (insertCart_legal hm image) rfl
  | hostRemoveCartridge => exact h.next e (hm.setCart fun _ hk => nomatch hk) rfl
  | hostReset => exact h.next e (warmReset_legal hc hm) rfl
  | hostKeyDown code => exact h.next e (setKey_legal hm code true) rfl
  | hostKeyUp code => exact h.next e (setKey_legal hm code false) rfl
  | hostSaveSnapshot => exact saveSnapshot_legal h e
  | hostLoadSnapshot => exact loadSnapshot_legal h e

end legal

/-- Settles O8: the power-on Machine is legal, and nothing is saved. -/
theorem resetStateIsLegal : Obligations.ResetStateIsLegal := by
  unfold Obligations.ResetStateIsLegal
  exact ⟨powerOn_legal _, fun _ he => nomatch he⟩

/-- Settles O9: what a step runs is well formed and selected, and such an operation keeps legality. -/
theorem everyStepKeepsLegality : Obligations.EveryStepKeepsLegality := by
  unfold Obligations.EveryStepKeepsLegality
  intro s t h hstep
  obtain ⟨-, -, rfl⟩ | ⟨f, e, -, -, rfl⟩ | ⟨f, rest, e, -, -, -, rfl⟩ | ⟨f, i, -, hd, -, hs, he⟩ |
    ⟨f, rest, i, -, -, hd, -, he⟩ := step_cases hstep
  · exact h
  · exact ⟨h.machine, h.snapshots⟩
  · exact ⟨h.machine, h.snapshots⟩
  · exact exec_legal (s := s.takeBench) ⟨h.machine, h.snapshots⟩ (decodeYieldsWellFormedOperation f i hd) hs he
  · obtain ⟨⟨hw, -, hs⟩, -⟩ := decodeCommand_ok hd
    exact exec_legal (s := s.takeRequest) ⟨h.machine, h.snapshots⟩ hw (hs _) he

end Sys2Proof.Machine

/-! PROOF. The system bus (R180 to R204): RAM, the open-bus latch, audio, the DMA trigger and its byte moves, the
controllers, the cartridge window. -/

namespace Sys2Proof.Machine

variable {c : Cfg} {m : Mach}

/-! ## RAM and mirroring -/

/-- Settles O10: the index a RAM access computes is the address modulo 0x0800, and a read follows a write. -/
theorem ramAccessesReachMirroredLocation : Obligations.RamAccessesReachMirroredLocation := by
  unfold Obligations.RamAccessesReachMirroredLocation
  refine ⟨fun a s => ⟨_, rfl, ?_⟩, fun a d s => ⟨ramIndex_eq a, _, rfl, Memory.read_write _ _ _⟩⟩
  rw [← ramIndex_eq]
  rfl

theorem busRead_ram {a : Addr} (h : a.toNat < 0x2000) (m : Mach) :
    (busRead c a m).1 = Memory.read m.bus.ram (ramIndex a) := by
  simp [busRead, readTarget, cpuReadOp_ranges, h, latchRead, ramRead]

theorem busWrite_ram {a : Addr} (h : a.toNat < 0x2000) (d : Byte) (m : Mach) :
    busWrite c a d m = ramWrite a d (m.setOpenBus d) := by
  simp [busWrite, writeTarget, cpuWriteOp_ranges, h]

/-- The lowest image of a RAM address. -/
theorem ramIndex_and_7FF (a : Addr) : ramIndex (a &&& 0x07FF) = ramIndex a := by
  rw [ramIndex_eq, ramIndex_eq, addr_and_7FF, Nat.mod_mod]

/-- The lowest image of a port's address. -/
theorem port_image_toNat (a : Addr) : (0x2000 + (a &&& 7)).toNat = 0x2000 + a.toNat % 8 := by
  rw [BitVec.toNat_add, addr_and_7]
  simp
  omega

theorem cpuReadOp_port {a : Addr} (h : 0x2000 ≤ a.toNat) (h' : a.toNat < 0x4000) : cpuReadOp a =
    if a.toNat % 8 = 2 then .status else if a.toNat % 8 = 4 then .oamData
    else if a.toNat % 8 = 7 then .ppuData else .regOpen := by
  rw [cpuReadOp_ranges, if_neg (by omega), if_pos h']

theorem cpuWriteOp_port {a : Addr} (h : 0x2000 ≤ a.toNat) (h' : a.toNat < 0x4000) : cpuWriteOp a =
    if a.toNat % 8 = 0 then .ctrl else if a.toNat % 8 = 1 then .mask
    else if a.toNat % 8 = 2 then .status else if a.toNat % 8 = 3 then .oamAddr
    else if a.toNat % 8 = 4 then .oamData else if a.toNat % 8 = 5 then .scroll
    else if a.toNat % 8 = 6 then .addr else .ppuData := by
  rw [cpuWriteOp_ranges, if_neg (by omega), if_pos h']

section port

variable {a : Addr} (h : 0x2000 ≤ a.toNat) (h' : a.toNat < 0x4000)
include h h'

theorem cpuReadOp_port_image : cpuReadOp (0x2000 + (a &&& 7)) = cpuReadOp a := by
  have e := port_image_toNat a
  have e8 : (0x2000 + (a &&& 7)).toNat % 8 = a.toNat % 8 := by omega
  rw [cpuReadOp_port h h', cpuReadOp_port (by omega) (by omega), e8]

theorem cpuWriteOp_port_image : cpuWriteOp (0x2000 + (a &&& 7)) = cpuWriteOp a := by
  have e := port_image_toNat a
  have e8 : (0x2000 + (a &&& 7)).toNat % 8 = a.toNat % 8 := by omega
  rw [cpuWriteOp_port h h', cpuWriteOp_port (by omega) (by omega), e8]

/-- A port's operation does not look at the address (R185, R186). -/
theorem busRead_port_image (m : Mach) : busRead c (0x2000 + (a &&& 7)) m = busRead c a m := by
  simp only [busRead, readTarget, cpuReadOp_port_image h h', cpuReadOp_port h h']
  split_ifs <;> rfl

theorem busWrite_port_image (d : Byte) (m : Mach) : busWrite c (0x2000 + (a &&& 7)) d m = busWrite c a d m := by
  simp only [busWrite, writeTarget, cpuWriteOp_port_image h h', cpuWriteOp_port h h']
  split_ifs <;> rfl

end port

/-- Settles O11. -/
theorem mirroredAddressesActAlike : Obligations.MirroredAddressesActAlike := by
  unfold Obligations.MirroredAddressesActAlike
  refine ⟨fun a d s => ⟨exec_cpuReadInstr s a, exec_cpuWriteInstr d s a⟩,
    fun a d s => ⟨exec_ppuReadInstr s a, exec_ppuWriteInstr d s a⟩, fun c a d m h => ?_,
    fun a h h' => ⟨(cpuReadOp_port_image h h').symm, (cpuWriteOp_port_image h h').symm⟩,
    fun c a d m h h' => ⟨(busRead_port_image h h' m).symm, (busWrite_port_image h h' d m).symm⟩⟩
  have h' : (a &&& 0x07FF).toNat < 0x2000 := by rw [addr_and_7FF]; omega
  rw [busRead_ram h', busWrite_ram h, ramIndex_and_7FF]
  exact Memory.read_write_self _ _ _

/-! ## The open-bus latch -/

theorem ppuWrite_bus (c : Cfg) (a : PpuAddr) (d : Byte) (m : Mach) : (ppuWrite c a d m).bus = m.bus := by
  unfold ppuWrite patternWrite
  split
  · split <;> rfl
  · rfl
  · rfl

/-- The operation of a write leaves the latch its access has set (R182). -/
theorem writeTarget_openBus (c : Cfg) (a : Addr) (d : Byte) (m : Mach) :
    (writeTarget c a d m).bus.openBus = m.bus.openBus := by
  unfold writeTarget
  cases cpuWriteOp a with
  | scroll => dsimp only; unfold scrollWrite; split <;> rfl
  | addr => dsimp only; unfold addrWrite; split <;> rfl
  | ppuData => exact congrArg Bus.openBus (ppuWrite_bus c _ d m)
  | cart => dsimp only; unfold cartWrite; split <;> rfl
  | _ => rfl

theorem dmaWrite_bus (m : Mach) : (dmaWrite m).bus = m.bus := by
  unfold dmaWrite
  dsimp only
  split <;> rfl

theorem setKey_bus (code : Byte) (v : Bool) (m : Mach) : (setKey code v m).bus = m.bus := by
  unfold setKey
  split
  · rfl
  · exact Mach.setPad_bus ..

theorem insertCart_eq_setCart (c : Cfg) (image : List Byte) (m : Mach) :
    (insertCart c image m).2 = m.setCart (insertCart c image m).2.cart := by
  unfold insertCart fail
  dsimp only
  split_ifs
  · rfl
  · rfl
  · rfl
  · rfl
  · split <;> rfl
  · rfl

/-- Settles O12. -/
theorem openBusLatchFollowsEveryAccess : Obligations.OpenBusLatchFollowsEveryAccess := by
  unfold Obligations.OpenBusLatchFollowsEveryAccess
  refine ⟨fun c a d m => ⟨rfl, writeTarget_openBus c a d _⟩, fun c m => ⟨?_, ?_, rfl, rfl, rfl, rfl, rfl⟩,
    fun c m code v image => ⟨?_, ?_, rfl, rfl⟩, fun c => rfl⟩
  · rw [(ppuTick_frame c m).bus]
  · rw [dmaWrite_bus]
  · rw [setKey_bus]
  · rw [insertCart_eq_setCart]
    rfl

/-! ## Accesses that go straight through -/

/-- Settles O13: each such operation is a read of the latch, or no effect at all, by its definition. -/
theorem unansweredAccessesTouchOnlyTheLatch : Obligations.UnansweredAccessesTouchOnlyTheLatch := by
  unfold Obligations.UnansweredAccessesTouchOnlyTheLatch
  exact fun a d s => ⟨rfl, rfl, rfl, rfl, rfl⟩

/-- Settles O14: each such operation is one call of the device, by its definition. -/
theorem audioPortsReachTheAudioDevice : Obligations.AudioPortsReachTheAudioDevice := by
  unfold Obligations.AudioPortsReachTheAudioDevice
  exact fun a d s => ⟨rfl, rfl, rfl⟩

/-! ## OAM DMA -/

theorem append_toNat (x y : Byte) : (x ++ y).toNat = x.toNat * 256 + y.toNat := by
  have h := y.isLt
  rw [BitVec.toNat_append, ← Nat.shiftLeft_add_eq_or_of_lt h, Nat.shiftLeft_eq]

theorem dmaRead_eq {a : Addr} (ha : a.toNat = m.dma.page.toNat * 256 + m.dma.index.toNat) :
    dmaRead c m = (busRead c a m).2.setDma
      { (busRead c a m).2.dma with latch := (busRead c a m).1, phase := .write } := by
  have e : m.dma.page ++ m.dma.index = a := BitVec.eq_of_toNat_eq (by rw [append_toNat, ha])
  unfold dmaRead
  rw [e]

theorem byte_eq_255_iff (b : Byte) : b = 255 ↔ b.toNat = 255 := BitVec.toNat_eq

theorem dmaWrite_eq (m : Mach) : dmaWrite m = (oamStore m.dma.latch m).setDma { m.dma with
    phase := .read
    active := if m.dma.index.toNat = 255 then false else m.dma.active
    index := if m.dma.index.toNat = 255 then m.dma.index else m.dma.index + 1 } := by
  unfold dmaWrite
  simp only [byte_eq_255_iff]
  split_ifs <;> rfl

theorem byte_succ_mod (x : Byte) : x + 1 = BitVec.ofNat 8 ((x.toNat + 1) % 256) := by
  rw [byte_succ]
  apply BitVec.eq_of_toNat_eq
  simp

/-- Settles O15. -/
theorem oamDmaRequestAndByteMoves : Obligations.OamDmaRequestAndByteMoves := by
  unfold Obligations.OamDmaRequestAndByteMoves
  refine ⟨fun d s => rfl, fun s a ha => ⟨⟨_, rfl, ?_⟩, _, ?_, Memory.read_write _ _ _⟩⟩
  · exact congrArg (answerMach s) (dmaRead_eq ha)
  · rw [← byte_succ_mod, ← byte_succ]
    exact congrArg (answerMach s) (dmaWrite_eq s.machine)

/-! ## Controllers -/

theorem getLsbD_zero_toNat {n : Nat} (d : BitVec n) : (d.getLsbD 0).toNat = d.toNat % 2 := by
  rw [toNat_getLsbD, Nat.pow_zero, Nat.div_one]

theorem bit0_iff (d : Byte) : d.getLsbD 0 = true ↔ d.toNat % 2 = 1 := by
  rw [← getLsbD_zero_toNat]
  cases d.getLsbD 0 <;> decide

theorem readPad_bit (p : Pad) : (bitByte (readPad p).1).toNat =
    if p.strobe then p.snapshot.toNat % 2 else if p.index < 8 then p.snapshot.toNat / 2 ^ p.index % 2 else 1 := by
  rw [bitByte_toNat]
  unfold readPad
  split_ifs
  · exact getLsbD_zero_toNat _
  · exact toNat_getLsbD _ _
  · rfl

theorem readPad_next (p : Pad) : (readPad p).2 =
    { p with index := if p.strobe = false ∧ p.index < 8 then p.index + 1 else p.index } := by
  obtain ⟨live, snapshot, index, strobe⟩ := p
  cases strobe with
  | true => rfl
  | false => by_cases hi : index < 8 <;> simp [readPad, hi]

/-- Settles O16. -/
theorem controllerPortAccesses : Obligations.ControllerPortAccesses := by
  unfold Obligations.ControllerPortAccesses
  refine ⟨fun d s => ⟨_, _, rfl, fun h => ?_, fun h => ?_⟩,
    fun s => ⟨⟨_, readPad_bit s.machine.pad0, ?_⟩, ⟨_, readPad_bit s.machine.pad1, ?_⟩⟩⟩
  · have h0 := (bit0_iff d).mpr h
    exact ⟨if_pos h0, if_pos h0⟩
  · have h0 : ¬ d.getLsbD 0 = true := by rw [bit0_iff]; omega
    exact ⟨if_neg h0, if_neg h0⟩
  · exact congrArg (fun p => answerRead s (bitByte (readPad s.machine.pad0).1, s.machine.setPad0 p)) (readPad_next _)
  · exact congrArg (fun p => answerRead s (bitByte (readPad s.machine.pad1).1, s.machine.setPad1 p)) (readPad_next _)

/-- What a key command leaves of a controller: all but the live buttons (R200). -/
theorem setKey_pad (code : Byte) (v : Bool) (p : Port) (m : Mach) :
    ∃ l, (setKey code v m).pad p = { m.pad p with live := l } := by
  unfold setKey
  split
  · exact ⟨_, rfl⟩
  · next q b _ => cases p <;> cases q <;> exact ⟨_, rfl⟩

theorem joyRead_pad (p : Port) (m : Mach) : (joyRead p m).2.pad p = (readPad (m.pad p)).2 := Mach.setPad_pad ..

/-- After `n` serial reads with the strobe released, from index 0: the snapshot as it was, the index at `n`, at most
8. -/
structure ShiftedOut (p : Port) (snapshot : Byte) (n : Nat) (m : Mach) : Prop where
  strobe : (m.pad p).strobe = false
  snapshot : (m.pad p).snapshot = snapshot
  index : (m.pad p).index = min n 8

theorem ShiftedOut.setKey {p : Port} {b : Byte} {n : Nat} (h : ShiftedOut p b n m) (code : Byte) (v : Bool) :
    ShiftedOut p b n (setKey code v m) := by
  obtain ⟨l, e⟩ := setKey_pad code v p m
  exact ⟨by rw [e]; exact h.strobe, by rw [e]; exact h.snapshot, by rw [e]; exact h.index⟩

theorem ShiftedOut.joyRead {p : Port} {b : Byte} {n : Nat} (h : ShiftedOut p b n m) :
    ShiftedOut p b (n + 1) (joyRead p m).2 := by
  constructor
  · rw [joyRead_pad, readPad_next]; exact h.strobe
  · rw [joyRead_pad, readPad_next]; exact h.snapshot
  · rw [joyRead_pad, readPad_next]
    simp only [h.strobe, h.index, true_and]
    split <;> omega

theorem ShiftedOut.bit {p : Port} {b : Byte} {n : Nat} (h : ShiftedOut p b n m) :
    (Sys2Proof.Machine.joyRead p m).1 = if n < 8 then bitByte (b.getLsbD n) else 1 := by
  simp only [Sys2Proof.Machine.joyRead, readPad, h.strobe, h.index, h.snapshot]
  by_cases hn : n < 8
  · simp [hn, Nat.min_eq_left (Nat.le_of_lt hn)]
  · simp [hn, Nat.min_eq_right (Nat.le_of_not_lt hn)]
    rfl

/-- Settles O17, by induction on the number of reads. -/
theorem shiftOutDeliversSnapshotInOrder : Obligations.ShiftOutDeliversSnapshotInOrder := by
  unfold Obligations.ShiftOutDeliversSnapshotInOrder
  intro p keys m hs hi n
  refine ShiftedOut.bit (ShiftedOut.setKey ?_ _ _)
  induction n with
  | zero => exact ⟨hs, rfl, hi⟩
  | succ n ih => exact (ih.setKey _ _).joyRead

/-! ## The cartridge window -/

section cartridge

variable {k : Cartridge} {s : State}

theorem cartRead_none (h : m.cart = none) (a : Addr) : cartRead c a m = (m.bus.openBus, m) := by
  simp [cartRead, h]

theorem cartRead_some (h : m.cart = some k) (a : Addr) : cartRead c a m =
    ((mapCpuRead c k a).1.getD m.bus.openBus, m.setCart (some (mapCpuRead c k a).2)) := by
  simp [cartRead, h]

theorem cartWrite_none (h : m.cart = none) (a : Addr) (d : Byte) : cartWrite c a d m = m := by
  simp [cartWrite, h]

theorem cartWrite_some (h : m.cart = some k) (a : Addr) (d : Byte) :
    cartWrite c a d m = m.setCart (some (mapCpuWrite c k a d)) := by
  simp [cartWrite, h]

theorem patternRead_none (h : m.cart = none) (a : PpuAddr) : patternRead c a m = (0x00, m) := by
  simp [patternRead, h]

theorem patternRead_some (h : m.cart = some k) (a : PpuAddr) : patternRead c a m =
    ((mapPpuRead c k a).1.getD 0x00, m.setCart (some (mapPpuRead c k a).2)) := by
  simp [patternRead, h]

theorem patternWrite_none (h : m.cart = none) (a : PpuAddr) (d : Byte) : patternWrite c a d m = m := by
  simp [patternWrite, h]

theorem patternWrite_some (h : m.cart = some k) (a : PpuAddr) (d : Byte) :
    patternWrite c a d m = m.setCart (some (mapPpuWrite c k a d)) := by
  simp [patternWrite, h]

/-- A capability read of the inserted variant. -/
theorem capRead_some {f : Cartridge → Option (Option Byte)} {b : Option Byte} (h : s.machine.cart = some k)
    (hf : f k = some b) : capRead s f = .next { s with result := .optByte b } := by
  simp [capRead, h, hf, State.answer]

/-- A capability write of the inserted variant. -/
theorem capWrite_some {f : Cartridge → Option Cartridge} {k' : Cartridge} (h : s.machine.cart = some k)
    (hf : f k = some k') : capWrite s f = .next { s with
      result := .none, machine := { s.machine with cart := some k' } } := by
  simp [capWrite, h, hf, State.answer, Mach.setCart]

end cartridge

/-- Settles O18: every access is one capability call, once the cartridge and its variant are known. -/
theorem cartridgeAccessesGoToTheVariant : Obligations.CartridgeAccessesGoToTheVariant := by
  unfold Obligations.CartridgeAccessesGoToTheVariant
  refine ⟨fun a d s => ⟨fun h => ?_, fun k h => ?_⟩, fun a d s => ⟨fun h => ?_, fun k h => ?_⟩,
    fun a q d s k h => ⟨fun hm => ?_, fun b hm => ?_, fun b hm => ?_⟩, fun c a q d k id regs v hm hv => ?_⟩
  · exact ⟨congrArg (answerRead s) (cartRead_none h a),
      congrArg (answerMach s) (cartWrite_none (m := s.machine.setOpenBus d) h a d)⟩
  · exact ⟨congrArg (answerRead s) (cartRead_some h a),
      congrArg (answerMach s) (cartWrite_some (m := s.machine.setOpenBus d) h a d)⟩
  · exact ⟨congrArg (answerPpuRead s) (patternRead_none h a), congrArg (answerMach s) (patternWrite_none h a d)⟩
  · exact ⟨congrArg (answerPpuRead s) (patternRead_some h a), congrArg (answerMach s) (patternWrite_some h a d)⟩
  iterate 3
    refine ⟨capRead_some h ?_, capWrite_some h ?_, capRead_some h ?_, capWrite_some h ?_,
      mapCpuRead_reference ?_ a, mapPpuRead_reference ?_ q⟩
    · simp [mapCpuRead, hm]
    · simp [mapCpuWrite, hm]
    · simp [mapPpuRead, hm]
    · simp [mapPpuWrite, hm]
    · simp [hm]
    · simp [hm]
  · simp [mapCpuRead, mapCpuWrite, mapPpuRead, mapPpuWrite, furtherCpuRead, furtherCpuWrite, furtherPpuRead,
      furtherPpuWrite, hm, hv]

end Sys2Proof.Machine

/-! PROOF. The picture generator's ports (R230 to R243) and its side of memory (R250 to R257): what a port writes of `t`
and `v` is read off bit by bit, and a data-port access is the PPU-side access of its region. -/

namespace Sys2Proof.Machine

variable {c : Cfg} {m : Mach}

/-! ## Fields -/

theorem extractLsb'_setField {n w : Nat} (v : BitVec n) (lo : Nat) (f : BitVec w) (h : lo + w ≤ n) :
    (setField v lo f).extractLsb' lo w = f := by
  apply BitVec.eq_of_getLsbD_eq
  intro i hi
  simp [getLsbD_setField v lo f h, hi]

/-- A field another assignment does not reach. -/
theorem extractLsb'_setField_of_disjoint {n w : Nat} (v : BitVec n) {lo lo' len : Nat} (f : BitVec w) (h : lo + w ≤ n)
    (hd : lo' + len ≤ lo ∨ lo + w ≤ lo') : (setField v lo f).extractLsb' lo' len = v.extractLsb' lo' len := by
  apply BitVec.eq_of_getLsbD_eq
  intro i hi
  simp only [BitVec.getLsbD_extractLsb', getLsbD_setField v lo f h]
  rw [if_neg (by omega)]

/-! ## Control, mask, status -/

/-- Settles O19: the field of `t` a control write assigns, and its other bits. -/
theorem controlAndMaskWrites : Obligations.ControlAndMaskWrites := by
  unfold Obligations.ControlAndMaskWrites
  refine fun a d s => ⟨⟨_, rfl, extractLsb'_setField _ 10 _ (by decide), fun i h10 h11 => ?_⟩, rfl⟩
  exact (getLsbD_setField _ 10 _ (by decide) i).trans (if_neg (by omega))

theorem statusByte_bits (p : Ppu) : (statusByte p).getLsbD 7 = p.vblank ∧ (statusByte p).getLsbD 6 = p.sprite0Hit ∧
    (statusByte p).getLsbD 5 = p.overflow ∧ (statusByte p).toNat % 32 = 0 := by
  unfold statusByte
  cases p.vblank <;> cases p.sprite0Hit <;> cases p.overflow <;> decide

/-- Settles O20. -/
theorem statusReadReturnsAndClears : Obligations.StatusReadReturnsAndClears := by
  unfold Obligations.StatusReadReturnsAndClears
  exact fun a s => ⟨_, rfl, statusByte_bits s.machine.ppu⟩

/-! ## OAM -/

/-- Settles O21. -/
theorem oamPortAccesses : Obligations.OamPortAccesses := by
  unfold Obligations.OamPortAccesses
  intro a d s
  rw [← byte_succ]
  exact ⟨rfl, rfl, _, rfl, Memory.read_write _ _ _⟩

/-! ## Scroll and address -/

theorem scrollWrite_first (h : m.ppu.w = false) (d : Byte) : scrollWrite d m =
    m.setPpu { m.ppu with t := scrollXToT m.ppu.t d, x := d.extractLsb' 0 3, w := true } := by
  simp [scrollWrite, h]

theorem scrollWrite_second (h : m.ppu.w = true) (d : Byte) : scrollWrite d m =
    m.setPpu { m.ppu with t := scrollYToT m.ppu.t d, w := false } := by
  simp [scrollWrite, h]

theorem addrWrite_first (h : m.ppu.w = false) (d : Byte) : addrWrite d m =
    m.setPpu { m.ppu with t := addrHiToT m.ppu.t d, w := true } := by
  simp [addrWrite, h]

theorem addrWrite_second (h : m.ppu.w = true) (d : Byte) : addrWrite d m =
    m.setPpu { m.ppu with t := addrLoToT m.ppu.t d, v := addrLoToT m.ppu.t d, w := false } := by
  simp [addrWrite, h]

/-- Settles O22: one of the two writes, by the toggle; each assigns one or two fields of `t`. -/
theorem scrollWritesFillScrollFields : Obligations.ScrollWritesFillScrollFields := by
  unfold Obligations.ScrollWritesFillScrollFields
  intro a d s
  cases hw : s.machine.ppu.w with
  | false =>
    refine ⟨scrollXToT s.machine.ppu.t d, fun _ => ⟨?_, ?_, fun i hi => ?_⟩, nofun⟩
    · exact congrArg (answerMach s) (scrollWrite_first (m := s.machine.setOpenBus d) hw d)
    · exact extractLsb'_setField _ 0 _ (by decide)
    · exact (getLsbD_setField _ 0 _ (by decide) i).trans (if_neg (by omega))
  | true =>
    refine ⟨scrollYToT s.machine.ppu.t d, nofun, fun _ => ⟨?_, ?_, ?_, fun i hi => ?_⟩⟩
    · exact congrArg (answerMach s) (scrollWrite_second (m := s.machine.setOpenBus d) hw d)
    · exact (extractLsb'_setField_of_disjoint _ (lo := 5) _ (by decide) (by decide)).trans
        (extractLsb'_setField _ 12 _ (by decide))
    · exact extractLsb'_setField _ 5 _ (by decide)
    · exact ((getLsbD_setField _ 5 _ (by decide) i).trans (if_neg (by omega))).trans
        ((getLsbD_setField _ 12 _ (by decide) i).trans (if_neg (by omega)))

/-- Settles O23, in the same way. -/
theorem addressWritesFillVramAddress : Obligations.AddressWritesFillVramAddress := by
  unfold Obligations.AddressWritesFillVramAddress
  intro a d s
  cases hw : s.machine.ppu.w with
  | false =>
    refine ⟨addrHiToT s.machine.ppu.t d, fun _ => ⟨?_, ?_, ?_, fun i hi => ?_⟩, nofun⟩
    · exact congrArg (answerMach s) (addrWrite_first (m := s.machine.setOpenBus d) hw d)
    · exact (extractLsb'_setField_of_disjoint _ (lo := 14) _ (by decide) (by decide)).trans
        (extractLsb'_setField _ 8 _ (by decide))
    · exact getLsbD_setField _ 14 _ (by decide) 14
    · exact ((getLsbD_setField _ 14 _ (by decide) i).trans (if_neg (by omega))).trans
        ((getLsbD_setField _ 8 _ (by decide) i).trans (if_neg (by omega)))
  | true =>
    refine ⟨addrLoToT s.machine.ppu.t d, nofun, fun _ => ⟨?_, ?_, fun i hi => ?_⟩⟩
    · exact congrArg (answerMach s) (addrWrite_second (m := s.machine.setOpenBus d) hw d)
    · exact extractLsb'_setField _ 0 _ (by decide)
    · exact (getLsbD_setField _ 0 _ (by decide) i).trans (if_neg (by omega))

/-! ## PPU-side accesses by region -/

section region

variable {a : PpuAddr}

theorem ppuRead_pattern (h : a.toNat < 0x2000) (m : Mach) : ppuRead c a m = patternRead c a m := by
  simp [ppuRead, ppuRegion_ranges, h]

theorem ppuRead_nametable (h : 0x2000 ≤ a.toNat) (h' : a.toNat < 0x3F00) (m : Mach) :
    ppuRead c a m = (nametableRead c a m, m) := by
  simp [ppuRead, ppuRegion_ranges, Nat.not_lt.mpr h, h']

theorem ppuRead_palette (h : 0x3F00 ≤ a.toNat) (m : Mach) : ppuRead c a m = (paletteRead a m, m) := by
  simp [ppuRead, ppuRegion_ranges, Nat.not_lt.mpr h, show ¬ a.toNat < 0x2000 by omega]

theorem ppuWrite_pattern (h : a.toNat < 0x2000) (d : Byte) (m : Mach) : ppuWrite c a d m = patternWrite c a d m := by
  simp [ppuWrite, ppuRegion_ranges, h]

theorem ppuWrite_nametable (h : 0x2000 ≤ a.toNat) (h' : a.toNat < 0x3F00) (d : Byte) (m : Mach) :
    ppuWrite c a d m = nametableWrite c a d m := by
  simp [ppuWrite, ppuRegion_ranges, Nat.not_lt.mpr h, h']

theorem ppuWrite_palette (h : 0x3F00 ≤ a.toNat) (d : Byte) (m : Mach) : ppuWrite c a d m = paletteWrite a d m := by
  simp [ppuWrite, ppuRegion_ranges, Nat.not_lt.mpr h, show ¬ a.toNat < 0x2000 by omega]

end region

/-! ## The data port -/

theorem dataAddr_eq {v : VramReg} {a : PpuAddr} (h : a.toNat = v.toNat % 0x4000) : dataAddr v = a := by
  apply BitVec.eq_of_toNat_eq
  simp [dataAddr, h]

theorem add_ctrlInc_eq {v v' : VramReg} {ctrl : Byte}
    (h : v'.toNat = (v.toNat + (if ctrl.getLsbD 2 then 32 else 1)) % 0x8000) : v + ctrlInc ctrl = v' := by
  apply BitVec.eq_of_toNat_eq
  rw [BitVec.toNat_add, h]
  unfold ctrlInc
  split <;> rfl

theorem dataRead_buffered (h : (dataAddr m.ppu.v).toNat < 0x3F00) : dataRead c m = (m.ppu.readBuffer, { m with
    cart := (ppuRead c (dataAddr m.ppu.v) m).2.cart
    ppu := { m.ppu with
      readBuffer := (ppuRead c (dataAddr m.ppu.v) m).1, v := m.ppu.v + ctrlInc m.ppu.ctrl } }) := by
  unfold dataRead
  dsimp only
  rw [if_pos h, ppuRead_eq_setCart]
  rfl

theorem dataRead_palette (h : 0x3F00 ≤ (dataAddr m.ppu.v).toNat) : dataRead c m =
    (paletteRead (dataAddr m.ppu.v) m, m.setPpu { m.ppu with
      readBuffer := nametableRead c (dataAddr m.ppu.v - 0x1000) m, v := m.ppu.v + ctrlInc m.ppu.ctrl }) := by
  have h' : (dataAddr m.ppu.v - 0x1000).toNat = (dataAddr m.ppu.v).toNat - 0x1000 := by bv_omega
  have hlt := (dataAddr m.ppu.v).isLt
  unfold dataRead
  dsimp only
  rw [if_neg (by omega), ppuRead_palette h, ppuRead_nametable (by omega) (by omega)]
  rfl

/-- Settles O24. -/
theorem dataPortReadIsBufferedBelowPalette : Obligations.DataPortReadIsBufferedBelowPalette := by
  unfold Obligations.DataPortReadIsBufferedBelowPalette
  intro a s va v' hva hv'
  rw [← dataAddr_eq hva, ← add_ctrlInc_eq hv']
  exact ⟨fun h => congrArg (answerRead s) (dataRead_buffered h),
    fun h => congrArg (answerRead s) (dataRead_palette h)⟩

theorem patternWrite_eq_map (c : Cfg) (a : PpuAddr) (d : Byte) (m : Mach) :
    patternWrite c a d m = m.setCart (m.cart.map (fun k => mapPpuWrite c k a d)) := by
  cases h : m.cart with
  | none => rw [patternWrite_none h, Option.map_none, ← h]; rfl
  | some k => rw [patternWrite_some h]; rfl

/-- Settles O25: region by region. -/
theorem dataPortWriteStoresByRegion : Obligations.DataPortWriteStoresByRegion := by
  unfold Obligations.DataPortWriteStoresByRegion
  intro a d s va v' hva hv'
  rw [← add_ctrlInc_eq hv']
  have hw : exec (.ppuDataWr a d) s = answerMach s (advanceV (ppuWrite Config.cfg va d (s.machine.setOpenBus d))) := by
    rw [← dataAddr_eq hva]; rfl
  rw [hw]
  by_cases hpat : va.toNat < 0x2000
  · refine ⟨s.machine.ppu.vram, s.machine.ppu.palette, ?_, fun b => (if_neg (by omega)).symm,
      fun b => (if_neg (by omega)).symm⟩
    rw [ppuWrite_pattern hpat, if_pos hpat, patternWrite_eq_map]
    rfl
  by_cases hpal : va.toNat < 0x3F00
  · refine ⟨Memory.write s.machine.ppu.vram (ntMap (mapMirrorMode Config.cfg s.machine.cart) va) d,
      s.machine.ppu.palette, ?_, fun b => ?_, fun b => (if_neg (by omega)).symm⟩
    · rw [ppuWrite_nametable (by omega) hpal, if_neg hpat]; rfl
    · rw [Memory.read_write]
      simp only [Nat.not_lt.mp hpat, hpal, true_and]
  · refine ⟨s.machine.ppu.vram, Memory.write s.machine.ppu.palette (palIndex va) (d.setWidth 6), ?_,
      fun b => (if_neg (by omega)).symm, fun b => ?_⟩
    · rw [ppuWrite_palette (by omega), if_neg hpat]; rfl
    · rw [Memory.read_write]
      simp only [Nat.not_lt.mp hpal, true_and]

/-! ## Palette and nametables -/

theorem palIndex_eq (a : PpuAddr) : palIndex a = if a.toNat % 4 = 0 then a.toNat % 16 else a.toNat % 32 := by
  have e : a &&& 0x1F = BitVec.ofNat 14 (a.toNat % 32) := by
    apply BitVec.eq_of_toNat_eq
    rw [ppu_and_1F, BitVec.toNat_ofNat]
    omega
  have table : ∀ i < 32, (if BitVec.ofNat 14 i &&& 0x13 = 0x10 then (BitVec.ofNat 14 i &&& 0x0F).toNat
      else (BitVec.ofNat 14 i).toNat) = if i % 4 = 0 then i % 16 else i := by decide
  unfold palIndex
  rw [e]
  refine (table _ (Nat.mod_lt _ (by decide))).trans ?_
  rw [Nat.mod_mod_of_dvd _ (by decide), Nat.mod_mod_of_dvd _ (by decide)]

/-- Settles O26. -/
theorem paletteAccessReachesMirroredEntry : Obligations.PaletteAccessReachesMirroredEntry := by
  unfold Obligations.PaletteAccessReachesMirroredEntry
  intro a d s
  refine ⟨palIndex_eq a, ⟨_, ?_, rfl⟩, _, rfl, fun i => ?_⟩
  · exact BitVec.toNat_setWidth_of_le (by decide)
  · rw [Memory.read_write]
    split
    · exact BitVec.toNat_setWidth ..
    · rfl

theorem ntMap_eq (mode : MirrorMode) (a : PpuAddr) :
    ntMap mode a = ntQuarter mode (a.toNat / 1024 % 4) * 1024 + a.toNat % 1024 := by
  have h : ((a - 0x2000) &&& 0x0FFF).toNat = a.toNat % 4096 := by
    have hand := Nat.and_two_pow_sub_one_eq_mod (a - 0x2000).toNat 12
    have := a.isLt
    rw [BitVec.toNat_and]
    refine hand.trans ?_
    bv_omega
  unfold ntMap
  dsimp only
  rw [h, show a.toNat % 4096 / 1024 = a.toNat / 1024 % 4 by omega, show a.toNat % 4096 % 1024 = a.toNat % 1024 by omega]

/-- Settles O27: the quarter of each mode. -/
theorem nametableAccessReachesMirroredByte : Obligations.NametableAccessReachesMirroredByte := by
  unfold Obligations.NametableAccessReachesMirroredByte
  intro a d s
  refine ⟨_, ?_, rfl, rfl, _, rfl, Memory.read_write _ _ _⟩
  rw [ntMap_eq]
  cases mapMirrorMode Config.cfg s.machine.cart with
  | horizontal => simp only [ntQuarter]; omega
  | vertical => simp only [ntQuarter]; omega
  | singleLower => simp only [ntQuarter]
  | singleUpper => simp only [ntQuarter]
  | fourScreen => simp only [ntQuarter]

end Sys2Proof.Machine

/-! PROOF. The dot operations one by one (R273 to R288, R300, R305 to R308): the pixel's inputs and its composition, the
background registers and fetches, and the VRAM address, whose fields are read off as numbers (`setField_toNat`). -/

namespace Sys2Proof.Machine

variable {c : Cfg} {m : Mach}

/-! ## Flags and position -/

theorem vblSet_eq (m : Mach) : vblSet m = { m with
    ppu := { m.ppu with vblank := true }
    cpu := { m.cpu with nmiPending := m.cpu.nmiPending || m.ppu.ctrl.getLsbD 7 } } := by
  unfold vblSet ctrlNmiEnable
  cases m.ppu.ctrl.getLsbD 7 with
  | false => rw [Bool.or_false]; rfl
  | true => rw [Bool.or_true]; rfl

/-- Settles O28. -/
theorem flagEventsSetAndClear : Obligations.FlagEventsSetAndClear := by
  unfold Obligations.FlagEventsSetAndClear
  exact fun s => ⟨congrArg (answerMach s) (vblSet_eq s.machine), rfl⟩

theorem posAdvance_dot (h : m.ppu.cycle < 340) :
    posAdvance m = m.setPpu { m.ppu with cycle := m.ppu.cycle + 1 } := by
  simp [posAdvance, h]

theorem posAdvance_line (h : 340 ≤ m.ppu.cycle) (h' : m.ppu.scanline < 261) :
    posAdvance m = m.setPpu { m.ppu with cycle := 0, scanline := m.ppu.scanline + 1 } := by
  simp [posAdvance, Nat.not_lt.mpr h, h']

theorem posAdvance_frame (h : 340 ≤ m.ppu.cycle) (h' : 261 ≤ m.ppu.scanline) :
    posAdvance m = m.setPpu { m.ppu with cycle := 0, scanline := 0, frame := m.ppu.frame + 1 } := by
  simp [posAdvance, Nat.not_lt.mpr h, Nat.not_lt.mpr h']

/-- Settles O37. -/
theorem spriteClearAndPositionSteps : Obligations.SpriteClearAndPositionSteps := by
  unfold Obligations.SpriteClearAndPositionSteps
  exact fun s => ⟨rfl, fun h => congrArg (answerMach s) (posAdvance_dot h),
    fun h h' => congrArg (answerMach s) (posAdvance_line h h'),
    fun h h' => congrArg (answerMach s) (posAdvance_frame h h'), rfl⟩

/-! ## The pixel -/

section pixel

variable {p : Ppu} {x : Nat}

theorem bgPixel_shown (h : p.mask.getLsbD 3 = true ∧ (p.mask.getLsbD 1 = true ∨ 8 ≤ x)) : bgPixel p x =
    { p := bit2 (p.bgHi.getLsbD (15 - p.x.toNat)) (p.bgLo.getLsbD (15 - p.x.toNat))
      s := bit2 (p.atHi.getLsbD (15 - p.x.toNat)) (p.atLo.getLsbD (15 - p.x.toNat)) } :=
  if_pos (by simpa [maskShowBg, maskBgLeft] using h)

theorem bgPixel_hidden (h : ¬(p.mask.getLsbD 3 = true ∧ (p.mask.getLsbD 1 = true ∨ 8 ≤ x))) :
    bgPixel p x = { p := 0, s := 0 } :=
  if_neg (by simpa [maskShowBg, maskBgLeft] using h)

theorem spPixel_shown (h : p.mask.getLsbD 4 = true ∧ (p.mask.getLsbD 2 = true ∨ 8 ≤ x)) :
    spPixel p x = firstOpaque p.spZero x 0 (p.sp.take p.spCount) :=
  if_pos (by simpa [maskShowSp, maskSpLeft] using h)

theorem spPixel_hidden (h : ¬(p.mask.getLsbD 4 = true ∧ (p.mask.getLsbD 2 = true ∨ 8 ≤ x))) :
    spPixel p x = SpPixel.transparent :=
  if_neg (by simpa [maskShowSp, maskSpLeft] using h)

/-- The first opaque unit of a list shows (R274). -/
theorem firstOpaque_eq {z : Bool} {l : List SpriteUnit} {i : Nat} {u : SpriteUnit} (n : Nat) (hi : l[i]? = some u)
    (hu : unitPixel u x ≠ 0) (hf : ∀ j w, j < i → l[j]? = some w → unitPixel w x = 0) :
    firstOpaque z x n l = { p := unitPixel u x, q := attrPalette u.attr, behind := attrBehind u.attr,
                            isZero := n + i == 0 && z } := by
  induction l generalizing i n with
  | nil => cases hi
  | cons w l ih =>
    unfold firstOpaque
    cases i with
    | zero =>
      cases hi
      rw [if_pos hu, Nat.add_zero]
    | succ i =>
      have hw : unitPixel w x = 0 := hf 0 w (Nat.succ_pos i) rfl
      rw [if_neg (not_not.mpr hw), ih (n + 1) hi fun j v hj => hf (j + 1) v (Nat.succ_lt_succ hj),
        Nat.add_right_comm, Nat.add_assoc]

theorem firstOpaque_transparent {z : Bool} {l : List SpriteUnit} (n : Nat)
    (hl : ∀ w ∈ l, unitPixel w x = 0) : firstOpaque z x n l = SpPixel.transparent := by
  induction l generalizing n with
  | nil => rfl
  | cons w l ih =>
    unfold firstOpaque
    rw [if_neg (not_not.mpr (hl w List.mem_cons_self)), ih _ fun v hv => hl v (List.mem_cons_of_mem w hv)]

theorem unitPixel_toNat (u : SpriteUnit) : (unitPixel u x).toNat =
    if u.x.toNat ≤ x ∧ x ≤ u.x.toNat + 7 then
      2 * (u.hi.toNat / 2 ^ (7 - (x - u.x.toNat)) % 2) + u.lo.toNat / 2 ^ (7 - (x - u.x.toNat)) % 2
    else 0 := by
  unfold unitPixel
  split
  · simp only [bit2_toNat, toNat_getLsbD]
  · rfl

end pixel

/-- Settles O30. -/
theorem pixelInputsFollowShiftersAndUnits : Obligations.PixelInputsFollowShiftersAndUnits := by
  unfold Obligations.PixelInputsFollowShiftersAndUnits
  refine fun p x => ⟨fun h => ?_, fun h => ?_, fun h => ⟨fun i u hi hu hne hfirst => ?_, fun hall => ?_⟩,
    spPixel_hidden, fun u => unitPixel_toNat u⟩
  · rw [bgPixel_shown h]
    simp only [bit2_toNat, toNat_getLsbD, and_self]
  · rw [bgPixel_hidden h]
    exact ⟨rfl, rfl⟩
  · have hget : (p.sp.take p.spCount)[i]? = some u := by rw [List.getElem?_take, if_pos hi]; exact hu
    rw [spPixel_shown h, firstOpaque_eq 0 hget hne fun j w hj hw => hfirst j w hj ?_, Nat.zero_add]
    · rfl
    · rwa [List.getElem?_take, if_pos (hj.trans hi)] at hw
  · rw [spPixel_shown h]
    refine firstOpaque_transparent 0 fun w hw => ?_
    obtain ⟨i, hi⟩ := List.mem_iff_getElem?.mp hw
    rw [List.getElem?_take] at hi
    split_ifs at hi with hlt
    exact hall i w hlt hi

theorem composeEntry_background {bg : BgPixel} {sp : SpPixel} (hbg : bg.p ≠ 0) (hsp : sp.p = 0 ∨ sp.behind = true) :
    composeEntry bg sp = 4 * bg.s.toNat + bg.p.toNat := by
  unfold composeEntry
  rw [if_neg fun h => hbg h.1, if_neg]
  rintro ⟨hs, h⟩
  rcases hsp with h' | h'
  · exact hs h'
  · exact h.elim hbg (by simp [h'])

theorem composeEntry_sprite {bg : BgPixel} {sp : SpPixel} (hsp : sp.p ≠ 0) (h : bg.p = 0 ∨ sp.behind = false) :
    composeEntry bg sp = 16 + 4 * sp.q.toNat + sp.p.toNat := by
  unfold composeEntry
  rw [if_neg fun h => hsp h.2, if_pos ⟨hsp, h⟩]

/-- Settles O31: the entry is `composeEntry` of the two pixels, row by row of R275. -/
theorem pixelComposesAndStores : Obligations.PixelComposesAndStores := by
  unfold Obligations.PixelComposesAndStores
  intro s
  refine ⟨_, composeEntry (bgPixel s.machine.ppu (s.machine.ppu.cycle - 1))
    (spPixel s.machine.ppu (s.machine.ppu.cycle - 1)), rfl, fun hb hs => if_pos ⟨hb, hs⟩,
    fun hb hs => composeEntry_sprite hs (.inl hb), fun hb hs => composeEntry_background hb (.inl hs),
    fun _ hs h => composeEntry_sprite hs (.inr h), fun hb _ h => composeEntry_background hb (.inr h),
    fun b => Memory.read_write _ _ _ _⟩

/-! ## Fields as numbers -/

theorem setField_toNat {n w : Nat} (v : BitVec n) (lo : Nat) (f : BitVec w) (hw : lo + w ≤ n) :
    (setField v lo f).toNat =
    v.toNat / 2 ^ (lo + w) * 2 ^ (lo + w) + f.toNat * 2 ^ lo + v.toNat % 2 ^ lo := by
  have hlow : v.toNat % 2 ^ lo < 2 ^ lo := Nat.mod_lt _ (by positivity)
  have e : v.toNat / 2 ^ (lo + w) * 2 ^ (lo + w) + f.toNat * 2 ^ lo + v.toNat % 2 ^ lo =
      ((v.toNat / 2 ^ (lo + w)) <<< w ||| f.toNat) <<< lo ||| v.toNat % 2 ^ lo := by
    rw [← Nat.shiftLeft_add_eq_or_of_lt hlow, ← Nat.shiftLeft_add_eq_or_of_lt f.isLt, Nat.shiftLeft_eq,
      Nat.shiftLeft_eq, Nat.add_mul, Nat.mul_assoc, ← Nat.pow_add, Nat.add_comm w lo]
  rw [e]
  apply Nat.eq_of_testBit_eq
  intro i
  refine (getLsbD_setField v lo f hw i).trans ?_
  rw [Nat.testBit_or, Nat.testBit_shiftLeft, Nat.testBit_or, Nat.testBit_shiftLeft, Nat.testBit_mod_two_pow,
    Nat.testBit_div_two_pow]
  simp only [BitVec.testBit_toNat]
  by_cases h1 : i < lo
  · simp [h1, Nat.not_le.mpr h1]
  by_cases h2 : i < lo + w
  · simp [h1, h2, Nat.le_of_not_lt h1, show ¬ w ≤ i - lo by omega]
  · simp [h1, h2, Nat.le_of_not_lt h1, show w ≤ i - lo by omega, show i - lo - w + (lo + w) = i by omega]

theorem coarseX_toNat (v : VramReg) : (coarseX v).toNat = v.toNat % 32 := by
  simp [coarseX]

theorem coarseY_toNat (v : VramReg) : (coarseY v).toNat = v.toNat / 32 % 32 := by
  simp [coarseY, Nat.shiftRight_eq_div_pow]

theorem fineY_toNat (v : VramReg) : (fineY v).toNat = v.toNat / 4096 := by
  have := v.isLt
  simp [fineY, Nat.shiftRight_eq_div_pow]
  omega

theorem ntX_toNat (v : VramReg) : (ntX v).toNat = v.toNat / 1024 % 2 := toNat_getLsbD v 10

theorem ntY_toNat (v : VramReg) : (ntY v).toNat = v.toNat / 2048 % 2 := toNat_getLsbD v 11

theorem coarseX_eq_iff (v : VramReg) (f : BitVec 5) : coarseX v = f ↔ v.toNat % 32 = f.toNat := by
  rw [BitVec.toNat_eq, coarseX_toNat]

theorem coarseY_eq_iff (v : VramReg) (f : BitVec 5) : coarseY v = f ↔ v.toNat / 32 % 32 = f.toNat := by
  rw [BitVec.toNat_eq, coarseY_toNat]

theorem setCoarseX_toNat (v : VramReg) (f : BitVec 5) : (setCoarseX v f).toNat = v.toNat / 32 * 32 + f.toNat := by
  exact (setField_toNat v 0 f (by decide)).trans (by simp [Nat.mod_one])

theorem setCoarseY_toNat (v : VramReg) (f : BitVec 5) :
    (setCoarseY v f).toNat = v.toNat / 1024 * 1024 + f.toNat * 32 + v.toNat % 32 :=
  setField_toNat v 5 f (by decide)

theorem setNtX_toNat (v : VramReg) (b : Bool) :
    (setNtX v b).toNat = v.toNat / 2048 * 2048 + b.toNat * 1024 + v.toNat % 1024 := by
  exact (setField_toNat v 10 (BitVec.ofBool b) (by decide)).trans (by simp)

theorem setNtY_toNat (v : VramReg) (b : Bool) :
    (setNtY v b).toNat = v.toNat / 4096 * 4096 + b.toNat * 2048 + v.toNat % 2048 := by
  exact (setField_toNat v 11 (BitVec.ofBool b) (by decide)).trans (by simp)

theorem setFineY_toNat (v : VramReg) (f : BitVec 3) :
    (setFineY v f).toNat = f.toNat * 4096 + v.toNat % 4096 := by
  have h := setField_toNat v 12 f (by decide)
  have := v.isLt
  simp only [Nat.reduceAdd, Nat.reducePow] at h
  rw [setFineY, h]
  omega

/-! ## The increments and copies -/

theorem not_toNat (b : Bool) : (!b).toNat = 1 - b.toNat := by
  cases b <;> rfl

theorem incX_wrap {v : VramReg} (h : v.toNat % 32 = 31) :
    (incX v).toNat = v.toNat / 2048 * 2048 + (1 - v.toNat / 1024 % 2) * 1024 + v.toNat / 32 % 32 * 32 := by
  have e : incX v = setNtX (setCoarseX v 0) (!ntX v) := if_pos ((coarseX_eq_iff v 31).mpr h)
  rw [e, setNtX_toNat, setCoarseX_toNat, not_toNat, ntX_toNat]
  simp
  omega

theorem incX_step {v : VramReg} (h : v.toNat % 32 ≠ 31) : (incX v).toNat = v.toNat + 1 := by
  have e : incX v = setCoarseX v (coarseX v + 1) := if_neg fun h' => h ((coarseX_eq_iff v 31).mp h')
  rw [e, setCoarseX_toNat, BitVec.toNat_add, coarseX_toNat]
  simp
  omega

theorem incY_fine {v : VramReg} (h : v.toNat / 4096 < 7) : (incY v).toNat = v.toNat + 4096 := by
  have e : incY v = setFineY v (fineY v + 1) := if_pos (by rwa [fineY_toNat])
  rw [e, setFineY_toNat, BitVec.toNat_add, fineY_toNat]
  simp
  omega

/-- With fine Y at 7, the coarse step acts on `v` with fine Y cleared. -/
theorem incY_coarse {v : VramReg} (h : v.toNat / 4096 = 7) : incY v =
    if v.toNat / 32 % 32 = 29 then setCoarseY (setNtY (setFineY v 0) (!ntY v)) 0
    else if v.toNat / 32 % 32 = 31 then setCoarseY (setFineY v 0) 0
    else setCoarseY (setFineY v 0) (coarseY v + 1) := by
  unfold incY
  rw [if_neg (by rw [fineY_toNat]; omega)]
  simp only [coarseY_eq_iff]
  rfl

theorem incY_coarse_toNat {v : VramReg} (h : v.toNat / 4096 = 7) : (incY v).toNat =
    if v.toNat / 32 % 32 = 29 then (1 - v.toNat / 2048 % 2) * 2048 + v.toNat / 1024 % 2 * 1024 + v.toNat % 32
    else if v.toNat / 32 % 32 = 31 then v.toNat / 1024 % 4 * 1024 + v.toNat % 32
    else v.toNat % 4096 + 32 := by
  rw [incY_coarse h]
  split_ifs with h29 h31
  · rw [setCoarseY_toNat, setNtY_toNat, setFineY_toNat, not_toNat, ntY_toNat]
    simp
    omega
  · rw [setCoarseY_toNat, setFineY_toNat]
    simp
    omega
  · rw [setCoarseY_toNat, setFineY_toNat, BitVec.toNat_add, coarseY_toNat]
    simp
    omega

theorem getLsbD_copyX (v t : VramReg) (i : Nat) :
    (copyX v t).getLsbD i = if i < 5 ∨ i = 10 then t.getLsbD i else v.getLsbD i := by
  have hx := getLsbD_setField (setNtX v (ntX t)) 0 (coarseX t) (by decide) i
  have hn := getLsbD_setField v 10 (BitVec.ofBool (ntX t)) (by decide) i
  refine hx.trans ?_
  by_cases h5 : i < 5
  · simp [h5, coarseX]
  · rw [if_neg (by omega)]
    refine hn.trans ?_
    by_cases h10 : i = 10
    · subst h10; simp [ntX]
    · rw [if_neg (by omega), if_neg (by omega)]

theorem getLsbD_copyY (v t : VramReg) (i : Nat) : (copyY v t).getLsbD i =
    if (5 ≤ i ∧ i < 10) ∨ (11 ≤ i ∧ i < 15) then t.getLsbD i else v.getLsbD i := by
  have hc := getLsbD_setField (setField v 11 (t.extractLsb' 11 4)) 5 (coarseY t) (by decide) i
  have hf := getLsbD_setField v 11 (t.extractLsb' 11 4) (by decide) i
  refine hc.trans ?_
  by_cases h5 : 5 ≤ i ∧ i < 10
  · rw [if_pos (by omega), if_pos (by omega), coarseY, BitVec.getLsbD_extractLsb']
    simp [show i - 5 < 5 by omega, show 5 + (i - 5) = i by omega]
  · rw [if_neg (by omega)]
    refine hf.trans ?_
    by_cases h11 : 11 ≤ i ∧ i < 15
    · rw [if_pos (by omega), if_pos (by omega), BitVec.getLsbD_extractLsb']
      simp [show i - 11 < 4 by omega, show 11 + (i - 11) = i by omega]
    · rw [if_neg (by omega), if_neg (by omega)]

/-- Settles O34. -/
theorem vramIncrementsAndCopies : Obligations.VramIncrementsAndCopies := by
  unfold Obligations.VramIncrementsAndCopies
  refine ⟨fun s => ⟨⟨_, rfl, incX_wrap, incX_step⟩, ⟨_, rfl, incY_fine, fun h h29 => ?_, fun h h31 => ?_,
    fun h h29 h31 => ?_⟩⟩, fun s => ⟨⟨_, rfl, getLsbD_copyX _ _⟩, ⟨_, rfl, getLsbD_copyY _ _⟩⟩⟩
  · rw [incY_coarse_toNat h, if_pos h29]
  · rw [incY_coarse_toNat h, if_neg (by omega), if_pos h31]
  · rw [incY_coarse_toNat h, if_neg h29, if_neg h31]

/-! ## The background registers -/

theorem shiftLeft_one_toNat (r : BitVec 16) : (r <<< 1).toNat = 2 * r.toNat % 0x10000 := by
  rw [BitVec.toNat_shiftLeft, Nat.shiftLeft_eq]
  omega

theorem reloadLow_toNat (r : BitVec 16) (b : Byte) : (reloadLow r b).toNat = r.toNat / 256 * 256 + b.toNat := by
  have hand := and_highMask r.toNat 8 8
  have hor := Nat.shiftLeft_add_eq_or_of_lt b.isLt (r.toNat / 256)
  have := r.isLt
  have hb : (b.setWidth 16).toNat = b.toNat := BitVec.toNat_setWidth_of_le (by decide)
  unfold reloadLow
  rw [BitVec.toNat_or, BitVec.toNat_and, hb]
  change (r.toNat &&& 65280) ||| b.toNat = _
  simp only [Nat.reducePow, Nat.reduceSub, Nat.shiftLeft_eq] at hand hor
  rw [hand, Nat.mod_eq_of_lt (by omega), ← hor]

theorem spread_toNat (b : Bool) : (spread b).toNat = if b then 255 else 0 := by
  cases b <;> rfl

/-- Settles O32. -/
theorem shiftAndReloadOfBackgroundRegisters : Obligations.ShiftAndReloadOfBackgroundRegisters := by
  unfold Obligations.ShiftAndReloadOfBackgroundRegisters
  refine fun s => ⟨⟨_, _, _, _, rfl, shiftLeft_one_toNat _, shiftLeft_one_toNat _, shiftLeft_one_toNat _,
    shiftLeft_one_toNat _⟩, ⟨_, _, _, _, rfl, reloadLow_toNat _ _, reloadLow_toNat _ _, ?_, ?_⟩⟩
  · rw [reloadLow_toNat, spread_toNat]
  · rw [reloadLow_toNat, spread_toNat]

/-! ## The background fetches -/

theorem ntAddr_toNat (v : VramReg) : (ntAddr v).toNat = 0x2000 + v.toNat % 0x1000 := by
  have hand := Nat.and_two_pow_sub_one_eq_mod v.toNat 12
  have hor := Nat.two_pow_add_eq_or_of_lt (show v.toNat % 4096 < 2 ^ 13 by omega) 1
  unfold ntAddr
  rw [BitVec.toNat_or, BitVec.toNat_setWidth, BitVec.toNat_and]
  change 8192 ||| (v.toNat &&& 2 ^ 12 - 1) % 2 ^ 14 = _
  rw [hand, Nat.mod_eq_of_lt (by omega)]
  exact hor.symm

theorem atAddr_toNat (v : VramReg) : (atAddr v).toNat =
    0x23C0 + v.toNat / 0x400 % 4 * 0x400 + v.toNat / 128 % 8 * 8 + v.toNat / 4 % 8 := by
  have table : ∀ q < 4, ∀ y < 8, ∀ x < 8, 0x23C0 ||| q * 0x400 ||| y * 8 ||| x = 0x23C0 + q * 0x400 + y * 8 + x := by
    decide
  have hq := and_highMask v.toNat 10 2
  have hy := and_highMask (v.toNat / 16) 3 3
  have hx := Nat.and_two_pow_sub_one_eq_mod (v.toNat / 4) 3
  rw [Nat.div_div_eq_div_mul] at hy
  simp only [Nat.reducePow, Nat.reduceSub, Nat.reduceShiftLeft, Nat.reduceMul] at hq hy hx
  unfold atAddr
  simp only [BitVec.toNat_or, BitVec.toNat_setWidth, BitVec.toNat_and, BitVec.toNat_ushiftRight,
    Nat.shiftRight_eq_div_pow]
  change 9152 ||| (v.toNat &&& 3072) % 16384 ||| (v.toNat / 16 &&& 56) % 16384 ||| (v.toNat / 4 &&& 7) % 16384 = _
  rw [hq, hy, hx]
  have lq : v.toNat / 1024 % 4 < 4 := Nat.mod_lt _ (by decide)
  have ly : v.toNat / 128 % 8 < 8 := Nat.mod_lt _ (by decide)
  have lx : v.toNat / 4 % 8 < 8 := Nat.mod_lt _ (by decide)
  generalize v.toNat / 1024 % 4 = q at lq ⊢
  generalize v.toNat / 128 % 8 = y at ly ⊢
  generalize v.toNat / 4 % 8 = x at lx ⊢
  rw [Nat.mod_eq_of_lt (show q * 1024 < 16384 by omega), Nat.mod_eq_of_lt (show y * 8 < 16384 by omega),
    Nat.mod_eq_of_lt (show x < 16384 by omega)]
  exact table q lq y ly x lx

theorem atShift_eq (v : VramReg) : atShift v = 4 * (v.toNat / 64 % 2) + 2 * (v.toNat / 2 % 2) := by
  have table : ∀ y < 2, ∀ x < 2, y * 4 ||| x * 2 = 4 * y + 2 * x := by decide
  have hy := and_highMask (v.toNat / 16) 2 1
  have hx := and_highMask v.toNat 1 1
  rw [Nat.div_div_eq_div_mul] at hy
  simp only [Nat.reducePow, Nat.reduceSub, Nat.reduceShiftLeft, Nat.reduceMul] at hx hy
  unfold atShift
  simp only [BitVec.toNat_or, BitVec.toNat_and, BitVec.toNat_ushiftRight, Nat.shiftRight_eq_div_pow]
  change (v.toNat / 16 &&& 4) ||| (v.toNat &&& 2) = _
  rw [hy, hx]
  exact table _ (by omega) _ (by omega)

theorem atSelect_toNat (a : Byte) (v : VramReg) : (atSelect a v).toNat =
    a.toNat / 2 ^ (4 * (v.toNat / 64 % 2) + 2 * (v.toNat / 2 % 2)) % 4 := by
  unfold atSelect
  rw [BitVec.toNat_setWidth, BitVec.toNat_ushiftRight, Nat.shiftRight_eq_div_pow, atShift_eq]

theorem tableBase_toNat (b : Bool) : (tableBase b).toNat = if b then 0x1000 else 0 := by
  cases b <;> rfl

theorem bgPatternAddr_toNat (ctrl tile : Byte) (v : VramReg) : (bgPatternAddr ctrl tile v).toNat =
    (if ctrl.getLsbD 4 then 0x1000 else 0) + tile.toNat * 16 + v.toNat / 0x1000 := by
  have := tile.isLt
  have := v.isLt
  unfold bgPatternAddr ctrlBgTable
  simp only [BitVec.toNat_add, BitVec.toNat_shiftLeft, BitVec.toNat_setWidth, fineY_toNat, tableBase_toNat,
    Nat.shiftLeft_eq]
  split <;> omega

/-- A fetch: a read of PPU memory, then one field of the picture generator. -/
theorem fetch_eq {a a' : PpuAddr} (h : a.toNat = a'.toNat) (f : Ppu → Byte → Ppu) :
    (ppuRead c a m).2.setPpu (f (ppuRead c a m).2.ppu (ppuRead c a m).1) =
      { m with cart := (ppuRead c a' m).2.cart, ppu := f m.ppu (ppuRead c a' m).1 } := by
  rw [BitVec.eq_of_toNat_eq h, ppuRead_ppu, ppuRead_eq_setCart]
  rfl

/-- Settles O33. -/
theorem backgroundFetchesReadComputedAddresses : Obligations.BackgroundFetchesReadComputedAddresses := by
  unfold Obligations.BackgroundFetchesReadComputedAddresses
  intro s nt at' lo hi p v hnt hat hlo hhi
  have hnt' := (ntAddr_toNat s.machine.ppu.v).trans hnt.symm
  have hat' := (atAddr_toNat s.machine.ppu.v).trans hat.symm
  have hlo' := (bgPatternAddr_toNat s.machine.ppu.ctrl s.machine.ppu.ntByte s.machine.ppu.v).trans hlo.symm
  have hhi' : (bgPatternAddr s.machine.ppu.ctrl s.machine.ppu.ntByte s.machine.ppu.v + 8).toNat = hi.toNat := by
    have := hi.isLt
    rw [BitVec.toNat_add, hlo', hhi]
    exact Nat.mod_eq_of_lt (by simp; omega)
  refine ⟨?_, ⟨atSelect (ppuRead Config.cfg at' s.machine).1 s.machine.ppu.v, ?_, atSelect_toNat _ _⟩, ?_, ?_, ?_⟩
  · exact congrArg (answerMach s) (fetch_eq hnt' fun p b => { p with ntByte := b })
  · exact congrArg (answerMach s) (fetch_eq hat' fun p b => { p with atBits := atSelect b s.machine.ppu.v })
  · exact congrArg (answerMach s) (fetch_eq hlo' fun p b => { p with ptLo := b })
  · exact congrArg (answerMach s) (fetch_eq hhi' fun p b => { p with ptHi := b })
  · exact congrArg (answerMach s) (fetch_eq hnt' fun p b => { p with ntByte := b })

end Sys2Proof.Machine

/-! PROOF. Sprite evaluation (R295 to R300). `spScan` goes through the entries once: how it counts is one induction
(`spScan_counts`), and what it loads another (`spScan_loads`), in which a read sees the cartridge the reads before it
left. -/

namespace Sys2Proof.Machine

variable {c : Cfg} {m : Mach}

/-! ## The count -/

theorem spriteInRange_eq (ctrl y : Byte) (s : Nat) : spriteInRange ctrl s y =
    decide (y.toNat ≤ s ∧ s < y.toNat + (if ctrl.getLsbD 5 then 16 else 8)) := by
  unfold spriteInRange spriteRow spriteHeight ctrlSpTall
  rw [← Bool.decide_and]
  split <;> exact decide_eq_decide.mpr (by omega)

/-- What the test of an entry reads. -/
theorem entryInRange_congr {p q : Ppu} (hc : q.ctrl = p.ctrl) (hs : q.scanline = p.scanline) (ho : q.oam = p.oam) :
    entryInRange q = entryInRange p := by
  funext e
  simp only [entryInRange, oamByte, hc, hs, ho]

theorem DotFrame.entryInRange {m' : Mach} (h : DotFrame m m') : entryInRange m'.ppu = entryInRange m.ppu :=
  entryInRange_congr h.ctrl h.scanline h.oam

/-- `m` after an evaluation: the units and the cartridge as `r` has them, the count, the overflow flag and the note on
entry 0 as given, and nothing else changed. -/
def evaluated (m r : Mach) (count : Nat) (overflow zero : Bool) : Mach := { m with
  cart := r.cart
  ppu := { m.ppu with sp := r.ppu.sp, spCount := count, overflow := overflow, spZero := zero } }

/-- Loading a unit changes that unit and what the variant's reads leave. -/
theorem evaluated_loadUnit (c : Cfg) (n e : Nat) (m r : Mach) (count : Nat) (b z : Bool) :
    evaluated (loadUnit c n e m) r count ((loadUnit c n e m).ppu.overflow || b) z =
      evaluated m r count (m.ppu.overflow || b) z := by
  unfold loadUnit
  simp only [ppuRead_ppu]
  rw [ppuRead_eq_setCart c _ (ppuRead c _ m).2, ppuRead_eq_setCart c _ m]
  rfl

theorem spScan_cons_out {e n : Nat} {es : List Nat} {z : Bool} (h : entryInRange m.ppu e = false) :
    spScan c (e :: es) n z m = spScan c es n z m := by
  simp [spScan, h]

theorem spScan_cons_load {e n : Nat} {es : List Nat} {z : Bool} (h : entryInRange m.ppu e = true) (hn : n < 8) :
    spScan c (e :: es) n z m = spScan c es (n + 1) (z || e == 0) (loadUnit c n e m) := by
  simp [spScan, h, hn]

theorem spScan_cons_full {e n : Nat} {es : List Nat} {z : Bool} (h : entryInRange m.ppu e = true) (hn : 8 ≤ n) :
    spScan c (e :: es) n z m = setSprites n z (m.setPpu { m.ppu with overflow := true }) := by
  simp [spScan, h, Nat.not_lt.mpr hn]

/-- The scan of entries other than entry 0, `n` units loaded so far. -/
theorem spScan_counts (es : List Nat) (h0 : 0 ∉ es) {n : Nat} (hn : n ≤ 8) (z : Bool) (m : Mach) :
    spScan c es n z m = evaluated m (spScan c es n z m) (min 8 (n + (es.filter (entryInRange m.ppu)).length))
      (m.ppu.overflow || decide (8 < n + (es.filter (entryInRange m.ppu)).length)) z := by
  induction es generalizing n m with
  | nil =>
    rw [List.filter_nil, List.length_nil, Nat.add_zero, Nat.min_eq_right hn, decide_eq_false (Nat.not_lt.mpr hn),
      Bool.or_false]
    rfl
  | cons e es ih =>
    have he : e ≠ 0 := fun h => h0 (h ▸ List.mem_cons_self)
    have hes : 0 ∉ es := fun h => h0 (List.mem_cons_of_mem e h)
    cases hr : entryInRange m.ppu e with
    | false =>
      rw [spScan_cons_out hr, List.filter_cons_of_neg (by simp [hr])]
      exact ih hes hn m
    | true =>
      rw [List.filter_cons_of_pos hr, List.length_cons]
      rcases Nat.lt_or_ge n 8 with hlt | hge
      · have hz : (z || e == 0) = z := by simp [he]
        have hi := ih hes (n := n + 1) hlt (loadUnit c n e m)
        rw [(loadUnit_dotFrame c n e m).entryInRange, evaluated_loadUnit, Nat.add_assoc, Nat.add_comm 1] at hi
        rw [spScan_cons_load hr hlt, hz]
        exact hi
      · obtain rfl : n = 8 := Nat.le_antisymm hn hge
        rw [spScan_cons_full hr hge, Nat.min_eq_left (Nat.le_add_right _ _), decide_eq_true (by omega), Bool.or_true]
        rfl

/-- A whole evaluation: entry 0 comes first, so its note is exact. -/
theorem spLoad_counts (c : Cfg) (m : Mach) : spLoad c m = evaluated m (spLoad c m)
    (min 8 ((List.range 64).filter (entryInRange m.ppu)).length)
    (m.ppu.overflow || decide (8 < ((List.range 64).filter (entryInRange m.ppu)).length)) (entryInRange m.ppu 0) := by
  have hrange : List.range 64 = 0 :: (List.range 63).map Nat.succ := List.range_succ_eq_map
  have h0 : 0 ∉ (List.range 63).map Nat.succ := by simp
  have hload : spLoad c m = spScan c (List.range 64) 0 false m := rfl
  rw [hload, hrange]
  cases hr : entryInRange m.ppu 0 with
  | false =>
    rw [spScan_cons_out hr, List.filter_cons_of_neg (by simp [hr])]
    simpa using spScan_counts (c := c) _ h0 (Nat.zero_le 8) false m
  | true =>
    have hi := spScan_counts (c := c) _ h0 (n := 1) (by decide) true (loadUnit c 0 0 m)
    rw [(loadUnit_dotFrame c 0 0 m).entryInRange, evaluated_loadUnit, Nat.add_comm 1] at hi
    rw [spScan_cons_load hr (by decide), List.filter_cons_of_pos hr, List.length_cons]
    exact hi

/-- Settles O35. -/
theorem spriteEvaluationCountsEntries : Obligations.SpriteEvaluationCountsEntries := by
  unfold Obligations.SpriteEvaluationCountsEntries
  intro s
  refine ⟨s.answer .none (spLoad Config.cfg s.machine), ?_⟩
  intro p h inRange count
  have hin : entryInRange p = inRange := funext fun e => spriteInRange_eq _ _ _
  have hl := spLoad_counts Config.cfg s.machine
  rw [show s.machine.ppu = p from rfl, hin] at hl
  refine ⟨rfl, ?_⟩
  exact congrArg (s.answer .none) hl

/-! ## The loads -/

/-- The low-plane address of the unit of entry `e` (R298). -/
def unitAddr (p : Ppu) (e : Nat) : PpuAddr :=
  spriteAddr p.ctrl (oamByte p e 1) (oamByte p e 2) (spriteRow p.scanline (oamByte p e 0)).toNat

/-- The Machine after the two pattern reads of entry `e`, the low plane first. -/
def readUnit (c : Cfg) (m : Mach) (e : Nat) : Mach :=
  (ppuRead c (unitAddr m.ppu e + 8) (ppuRead c (unitAddr m.ppu e) m).2).2

/-- The unit that those reads give. -/
def unitOf (c : Cfg) (m : Mach) (e : Nat) : SpriteUnit where
  x := oamByte m.ppu e 3
  attr := oamByte m.ppu e 2
  lo := flipH (oamByte m.ppu e 2) (ppuRead c (unitAddr m.ppu e) m).1
  hi := flipH (oamByte m.ppu e 2) (ppuRead c (unitAddr m.ppu e + 8) (ppuRead c (unitAddr m.ppu e) m).2).1

theorem readUnit_ppu (c : Cfg) (m : Mach) (e : Nat) : (readUnit c m e).ppu = m.ppu :=
  (ppuRead_ppu ..).trans (ppuRead_ppu ..)

/-- Two Machines alike in all that an evaluation looks at: it may have replaced units in the one. -/
structure SameView (m m' : Mach) : Prop where
  cart : m.cart = m'.cart
  ctrl : m.ppu.ctrl = m'.ppu.ctrl
  scanline : m.ppu.scanline = m'.ppu.scanline
  oam : m.ppu.oam = m'.ppu.oam
  vram : m.ppu.vram = m'.ppu.vram
  palette : m.ppu.palette = m'.ppu.palette

section view

variable {m' : Mach}

theorem SameView.refl (m : Mach) : SameView m m := ⟨rfl, rfl, rfl, rfl, rfl, rfl⟩

theorem SameView.oamByte (h : SameView m m') : oamByte m.ppu = oamByte m'.ppu := by
  funext e b
  simp only [Sys2Proof.Machine.oamByte, h.oam]

theorem SameView.entryInRange (h : SameView m m') : entryInRange m.ppu = entryInRange m'.ppu :=
  entryInRange_congr h.ctrl h.scanline h.oam

theorem SameView.unitAddr (h : SameView m m') : unitAddr m.ppu = unitAddr m'.ppu := by
  funext e
  simp only [Sys2Proof.Machine.unitAddr, h.oamByte, h.ctrl, h.scanline]

theorem SameView.ppuRead_fst (h : SameView m m') (a : PpuAddr) : (ppuRead c a m).1 = (ppuRead c a m').1 := by
  unfold ppuRead patternRead nametableRead paletteRead ntIndex
  rw [h.cart, h.vram, h.palette]
  cases ppuRegion a with
  | pattern => cases m'.cart <;> rfl
  | palette => rfl
  | nametable => rfl

theorem SameView.ppuRead (h : SameView m m') (a : PpuAddr) : SameView (ppuRead c a m).2 (ppuRead c a m').2 := by
  have hcart : (Sys2Proof.Machine.ppuRead c a m).2.cart = (Sys2Proof.Machine.ppuRead c a m').2.cart := by
    unfold Sys2Proof.Machine.ppuRead patternRead
    rw [h.cart]
    cases ppuRegion a with
    | pattern =>
      cases hk : m'.cart with
      | none => exact h.cart
      | some k => rfl
    | palette => exact h.cart
    | nametable => exact h.cart
  refine ⟨hcart, ?_, ?_, ?_, ?_, ?_⟩ <;> rw [ppuRead_ppu, ppuRead_ppu]
  · exact h.ctrl
  · exact h.scanline
  · exact h.oam
  · exact h.vram
  · exact h.palette

theorem loadUnit_sp (c : Cfg) (n e : Nat) (m : Mach) : (loadUnit c n e m).ppu.sp = m.ppu.sp.set n (unitOf c m e) := by
  unfold loadUnit
  simp only [ppuRead_ppu]
  rfl

theorem loadUnit_view (n e : Nat) : SameView (loadUnit c n e m) (readUnit c m e) := by
  have h := loadUnit_dotFrame c n e m
  refine ⟨rfl, ?_, ?_, ?_, ?_, ?_⟩ <;> rw [readUnit_ppu]
  · exact h.ctrl
  · exact h.scanline
  · exact h.oam
  · exact h.vram
  · exact h.palette

theorem SameView.trans {m'' : Mach} (h : SameView m m') (g : SameView m' m'') : SameView m m'' :=
  ⟨h.cart.trans g.cart, h.ctrl.trans g.ctrl, h.scanline.trans g.scanline, h.oam.trans g.oam, h.vram.trans g.vram,
   h.palette.trans g.palette⟩

theorem SameView.readUnit (h : SameView m m') (e : Nat) : SameView (readUnit c m e) (readUnit c m' e) := by
  unfold Sys2Proof.Machine.readUnit
  rw [h.unitAddr]
  exact (h.ppuRead _).ppuRead _

theorem SameView.unitOf (h : SameView m m') (e : Nat) : unitOf c m e = unitOf c m' e := by
  unfold Sys2Proof.Machine.unitOf
  rw [h.unitAddr, h.oamByte, h.ppuRead_fst, (h.ppuRead _).ppuRead_fst]

end view

/-- The scan of entries, `n` units loaded so far and `m'` like `m`: the entries in range are read one after another, and
the unit of the `j`-th holds what its reads give after those of the entries before it. -/
theorem spScan_loads (es : List Nat) {n : Nat} (hn : n ≤ 8) (z : Bool) {m m' : Mach} (hv : SameView m m')
    (hl : m.ppu.sp.length = 8) :
    (spScan c es n z m).cart = (((es.filter (entryInRange m'.ppu)).take (8 - n)).foldl (readUnit c) m').cart ∧
    (∀ i, i < n → (spScan c es n z m).ppu.sp[i]? = m.ppu.sp[i]?) ∧
    ∀ j e, n + j < 8 → (es.filter (entryInRange m'.ppu))[j]? = some e → (spScan c es n z m).ppu.sp[n + j]? =
      some (unitOf c (((es.filter (entryInRange m'.ppu)).take j).foldl (readUnit c) m') e) := by
  induction es generalizing n z m m' with
  | nil =>
    rw [List.filter_nil, List.take_nil]
    exact ⟨hv.cart, fun i _ => rfl, fun j e _ he => by simp at he⟩
  | cons e es ih =>
    cases hr : entryInRange m.ppu e with
    | false =>
      have hr' : ¬ entryInRange m'.ppu e = true := by rw [← hv.entryInRange, hr]; decide
      rw [spScan_cons_out hr, List.filter_cons_of_neg hr']
      exact ih hn z hv hl
    | true =>
      have hr' : entryInRange m'.ppu e = true := by rw [← hv.entryInRange, hr]
      rw [List.filter_cons_of_pos hr']
      rcases Nat.lt_or_ge n 8 with hlt | hge
      · have hsp := loadUnit_sp c n e m
        have hp := readUnit_ppu c m' e
        obtain ⟨hcart, hkept, hunits⟩ := ih (n := n + 1) hlt (z || e == 0) (m := loadUnit c n e m)
          (m' := readUnit c m' e) ((loadUnit_view n e).trans (hv.readUnit e)) (by rw [hsp, List.length_set, hl])
        rw [hp] at hcart hunits
        rw [spScan_cons_load hr hlt]
        refine ⟨?_, fun i hi => ?_, fun j e' hj he' => ?_⟩
        · rw [hcart, show 8 - n = (8 - (n + 1)) + 1 by omega, List.take_succ_cons, List.foldl_cons]
        · rw [hkept i (Nat.lt_succ_of_lt hi), hsp, List.getElem?_set_ne (by omega)]
        · cases j with
          | zero =>
            cases he'
            refine (hkept n (Nat.lt_succ_self n)).trans ?_
            rw [hsp, List.getElem?_set_self (by omega), hv.unitOf]
            rfl
          | succ j =>
            rw [show n + (j + 1) = n + 1 + j by omega]
            exact hunits j e' (by omega) he'
      · rw [spScan_cons_full hr hge]
        refine ⟨?_, fun i _ => rfl, fun j e' hj => by omega⟩
        rw [show 8 - n = 0 by omega]
        exact hv.cart

/-! ## The addresses -/

theorem spriteRow_toNat (s : Nat) (y : Byte) : (spriteRow s y).toNat = s - y.toNat := Int.toNat_sub s y.toNat

theorem and_FE_toNat (t : Byte) : (t &&& 0xFE).toNat = t.toNat / 2 * 2 := by
  have h := and_highMask t.toNat 1 7
  have := t.isLt
  rw [BitVec.toNat_and]
  refine h.trans ?_
  omega

/-- The address of R298 as a number, for a row of the sprite. -/
theorem spriteAddr_toNat (ctrl tile attr : Byte) {row r : Nat}
    (hrow : row < if ctrl.getLsbD 5 then 16 else 8)
    (hr : r = if attr.getLsbD 7 then (if ctrl.getLsbD 5 then 16 else 8) - 1 - row else row) :
    (spriteAddr ctrl tile attr row).toNat =
      if ctrl.getLsbD 5 then tile.toNat % 2 * 0x1000 + (tile.toNat / 2 * 2 + r / 8) * 16 + r % 8
      else (if ctrl.getLsbD 3 then 0x1000 else 0) + tile.toNat * 16 + r := by
  have ht := tile.isLt
  have h0 := getLsbD_zero_toNat tile
  unfold spriteAddr spriteHeight ctrlSpTall attrFlipV ctrlSpTable
  dsimp only
  rw [← hr]
  cases h5 : ctrl.getLsbD 5 with
  | false =>
    simp only [h5, Bool.false_eq_true, if_false] at hrow hr
    have hr8 : r < 8 := by rw [hr]; split <;> omega
    simp only [Bool.false_eq_true, if_false, BitVec.toNat_add, tableBase_toNat, BitVec.toNat_shiftLeft,
      BitVec.toNat_setWidth, BitVec.toNat_ofNat, Nat.shiftLeft_eq]
    split <;> omega
  | true =>
    simp only [h5, if_true] at hrow hr
    have hr16 : r < 16 := by rw [hr]; split <;> omega
    have h1 : (if 8 ≤ r then 1#14 else 0#14).toNat = r / 8 := by split <;> simp <;> omega
    have hb : (if tile.getLsbD 0 = true then 4096 else 0) = tile.toNat % 2 * 4096 := by
      rw [← h0]; cases tile.getLsbD 0 <;> rfl
    simp only [if_true, BitVec.toNat_add, tableBase_toNat, BitVec.toNat_shiftLeft, BitVec.toNat_setWidth,
      BitVec.toNat_ofNat, Nat.shiftLeft_eq, and_FE_toNat, h1, hb]
    omega

theorem getLsbD_flipH (attr b : Byte) {j : Nat} (hj : j < 8) :
    (flipH attr b).getLsbD j = b.getLsbD (if attr.getLsbD 6 then 7 - j else j) := by
  unfold flipH attrFlipH
  cases attr.getLsbD 6 with
  | false => rfl
  | true => exact getLsbD_rev8 b j hj

/-- Reads at addresses that agree on a list of entries, from a Machine whose picture generator is `p`. -/
theorem foldl_reads_eq {p : Ppu} {lowAddr highAddr : Nat → PpuAddr} {l : List Nat}
    (hl : ∀ e ∈ l, lowAddr e = unitAddr p e ∧ highAddr e = unitAddr p e + 8) (hp : m.ppu = p) :
    l.foldl (fun m e => (ppuRead c (highAddr e) (ppuRead c (lowAddr e) m).2).2) m = l.foldl (readUnit c) m := by
  induction l generalizing m with
  | nil => rfl
  | cons e l ih =>
    obtain ⟨hlow, hhigh⟩ := hl e List.mem_cons_self
    have he : (ppuRead c (highAddr e) (ppuRead c (lowAddr e) m).2).2 = readUnit c m e := by
      unfold readUnit
      rw [hlow, hhigh, hp]
    rw [List.foldl_cons, List.foldl_cons, he]
    exact ih (fun e' h => hl e' (List.mem_cons_of_mem e h)) ((readUnit_ppu c m e).trans hp)

theorem foldl_readUnit_ppu (l : List Nat) (m : Mach) : (l.foldl (readUnit c) m).ppu = m.ppu := by
  induction l generalizing m with
  | nil => rfl
  | cons e l ih => exact (ih _).trans (readUnit_ppu c m e)

/-- Settles O36. -/
theorem spriteUnitsHoldTheChosenEntries : Obligations.SpriteUnitsHoldTheChosenEntries := by
  unfold Obligations.SpriteUnitsHoldTheChosenEntries
  intro s t lowAddr highAddr chosen p h tile attr row r readLow readHigh before hlen hchosen haddr hexec
  have hin : entryInRange p = fun e => decide ((Memory.read p.oam (4 * e)).toNat ≤ p.scanline ∧
      p.scanline < (Memory.read p.oam (4 * e)).toNat + h) := funext fun e => spriteInRange_eq _ _ _
  have hfilter : (List.range 64).filter (entryInRange p) = chosen := by rw [hin, hchosen]
  have ht : t.machine = spLoad Config.cfg s.machine := by cases hexec; rfl
  -- the addresses of the statement are those of the model
  have hreads : ∀ e ∈ chosen, lowAddr e = unitAddr p e ∧ highAddr e = unitAddr p e + 8 := by
    intro e he
    obtain ⟨hlow, hhigh⟩ := haddr e he
    have hrow : row e < h := by
      rw [hchosen, List.mem_filter, decide_eq_true_eq] at he
      show p.scanline - _ < h
      omega
    have hu : (unitAddr p e).toNat = (lowAddr e).toNat := by
      unfold unitAddr
      rw [spriteRow_toNat, hlow]
      exact spriteAddr_toNat _ _ _ hrow rfl
    have hlow' := BitVec.eq_of_toNat_eq hu.symm
    refine ⟨hlow', BitVec.eq_of_toNat_eq ?_⟩
    have := (highAddr e).isLt
    rw [BitVec.toNat_add, hu, hhigh]
    exact (Nat.mod_eq_of_lt (by simp; omega)).symm
  have hbefore : ∀ n, before n = (chosen.take n).foldl (readUnit Config.cfg) s.machine := fun n =>
    foldl_reads_eq (fun e he => hreads e (List.mem_of_mem_take he)) rfl
  obtain ⟨hcart, -, hunits⟩ := spScan_loads (c := Config.cfg) (List.range 64) (Nat.zero_le 8) false
    (SameView.refl s.machine) hlen
  rw [show s.machine.ppu = p from rfl, hfilter] at hcart hunits
  refine ⟨?_, fun n e hn he => ?_⟩
  · rw [ht, hbefore]
    exact hcart
  · have hb : (before n).ppu = p := by rw [hbefore, foldl_readUnit_ppu]
    obtain ⟨hlow, hhigh⟩ := hreads e (List.mem_of_getElem? he)
    have hu := hunits n e (by omega) he
    rw [Nat.zero_add, ← hbefore] at hu
    refine ⟨(unitOf Config.cfg (before n) e).lo, (unitOf Config.cfg (before n) e).hi, ?_, fun j hj => ⟨?_, ?_⟩⟩
    · rw [ht]
      refine hu.trans ?_
      unfold unitOf
      rw [hb]
      rfl
    · unfold unitOf
      rw [hb]
      refine (getLsbD_flipH _ _ hj).trans ?_
      rw [← hlow]
      rfl
    · unfold unitOf
      rw [hb]
      refine (getLsbD_flipH _ _ hj).trans ?_
      rw [← hhigh, ← hlow]
      rfl

end Sys2Proof.Machine

/-! PROOF. A whole dot (R270, R305 to R309). A dot is its selected operations run in the fixed order, stage by stage of
`ppuTick`; its last stage moves the position, which no other stage looks at; and its flags change in three stages only. -/

namespace Sys2Proof.Machine

variable {c : Cfg} {m : Mach}

/-! ## A dot as its selected operations -/

/-- What a DOT operation does to the Machine. -/
def dotOp (c : Cfg) : Instr → Mach → Mach
  | .vblSet => vblSet
  | .flagsClr => flagsClr
  | .pixel => pixel c
  | .bgShift => bgShift
  | .bgFetchNt => bgFetchNt c
  | .bgFetchAt => bgFetchAt c
  | .bgFetchLo => bgFetchLo c
  | .bgFetchHi => bgFetchHi c
  | .bgReload => bgReload
  | .vIncX => vIncX
  | .vIncY => vIncY
  | .vCopyX => vCopyX
  | .vCopyY => vCopyY
  | .bgDummyNt => bgDummyNt c
  | .spLoad => spLoad c
  | .spClear => spClear
  | .posAdvance => posAdvance
  | .posSkip => posSkip
  | _ => id

theorem exec_dotOp (s : State) : ∀ i ∈ dotOrder, exec i s = answerMach s (dotOp Config.cfg i s.machine) := by
  simp only [dotOrder, List.forall_mem_cons, List.not_mem_nil, false_imp_iff, implies_true, and_true]
  exact ⟨rfl, rfl, rfl, rfl, rfl, rfl, rfl, rfl, rfl, rfl, rfl, rfl, rfl, rfl, rfl, rfl, rfl, rfl⟩

/-- The operations of a list that are selected in `m0`, one after another on `m`. -/
def runDotOps (c : Cfg) (m0 : Mach) (l : List Instr) (m : Mach) : Mach :=
  l.foldl (fun x i => if selected i m0 then dotOp c i x else x) m

/-- Running DOT operations changes the Machine and, if any is selected, the answer. -/
theorem runSelected_dotOps (m0 : Mach) (l : List Instr) (hl : l ⊆ dotOrder) (s : State) : runSelected m0 l s =
    .next { s with
      machine := runDotOps Config.cfg m0 l s.machine
      result := if l.any (selected · m0) then .none else s.result } := by
  induction l generalizing s with
  | nil => rfl
  | cons i l ih =>
    obtain ⟨hi, hl⟩ := List.cons_subset.mp hl
    unfold runSelected runDotOps
    rw [exec_dotOp s i hi, List.any_cons, List.foldl_cons]
    cases hsel : selected i m0 with
    | false => exact ih hl s
    | true =>
      refine (ih hl _).trans ?_
      simp only [State.answer_result, ite_self]
      rfl

/-- The operations of the fetch dots, in order. -/
def fetchOps : List Instr := [.bgShift, .bgFetchNt, .bgFetchAt, .bgFetchLo, .bgFetchHi, .bgReload, .vIncX]

/-- The other operations of a rendering line, in order. -/
def lineOps : List Instr := [.vIncY, .vCopyX, .vCopyY, .bgDummyNt]

theorem runDotOps_flags (m0 m : Mach) :
    runDotOps c m0 [.vblSet, .flagsClr] m = dotFlags m0.ppu.scanline m0.ppu.cycle m := by
  simp [runDotOps, selected, dotOp, dotFlags]

theorem runDotOps_pixel (m0 m : Mach) : runDotOps c m0 [.pixel] m = dotPixel c m0.ppu.scanline m0.ppu.cycle m := by
  simp [runDotOps, selected, dotOp, dotPixel, and_assoc]

theorem runDotOps_fetch (m0 : Mach) (m : Mach) :
    runDotOps c m0 fetchOps m = if pipelineOn m0.ppu && fetchDot m0.ppu.cycle then dotFetch c m0.ppu.cycle (bgShift m)
      else m := by
  cases hp : pipelineOn m0.ppu && fetchDot m0.ppu.cycle with
  | false => simp [runDotOps, fetchOps, selected, patternDot, hp]
  | true =>
    simp only [runDotOps, fetchOps, List.foldl_cons, List.foldl_nil, selected, patternDot, hp, dotOp, dotFetch,
      Bool.true_and, if_true, beq_iff_eq]
    have h : m0.ppu.cycle % 8 < 8 := Nat.mod_lt _ (by decide)
    generalize m0.ppu.cycle % 8 = r at h ⊢
    interval_cases r <;> rfl

theorem runDotOps_pipeline (m0 : Mach) (m : Mach) :
    runDotOps c m0 lineOps (runDotOps c m0 fetchOps m) =
      if renderLine m0.ppu.scanline && rendering m0.ppu.mask then dotPipeline c m0.ppu.scanline m0.ppu.cycle m
      else m := by
  rw [runDotOps_fetch]
  cases hp : renderLine m0.ppu.scanline && rendering m0.ppu.mask with
  | false => simp [runDotOps, lineOps, selected, pipelineOn, hp]
  | true => simp [runDotOps, lineOps, selected, pipelineOn, hp, dotOp, dotPipeline, and_assoc]

theorem runDotOps_sprites (m0 m : Mach) : runDotOps c m0 [.spLoad, .spClear] m =
    dotSprites c m0.ppu.scanline m0.ppu.cycle (rendering m0.ppu.mask) m := by
  by_cases h257 : m0.ppu.cycle = 257
  · by_cases hl : m0.ppu.scanline ≤ 239
    · have hp : ¬ m0.ppu.scanline = 261 := by omega
      cases hr : rendering m0.ppu.mask <;>
        simp [runDotOps, selected, dotOp, dotSprites, renderLine, h257, hl, hp, hr]
    · by_cases hp : m0.ppu.scanline = 261 <;> simp [runDotOps, selected, dotOp, dotSprites, renderLine, h257, hl, hp]
  · simp [runDotOps, selected, dotSprites, h257]

/-- The position step of a dot of the frame (R307, R308). -/
theorem runDotOps_position {m0 : Mach} (hs : m0.ppu.scanline ≤ 261) (hc : m0.ppu.cycle ≤ 340)
    (h : DotFrame m0 m) : runDotOps c m0 [.posAdvance, .posSkip] m = dotPosition m := by
  unfold dotPosition
  rw [h.scanline, h.cycle, h.frame]
  by_cases hskip : m0.ppu.scanline = 261 ∧ m0.ppu.cycle = 339 ∧ m0.ppu.frame % 2 = 1
  · simp [runDotOps, selected, skipDot, dotOp, hskip]
  · have hf : skipDot m0.ppu = false := by simpa [skipDot] using hskip
    simp [runDotOps, selected, dotOp, hf, hs, hc, hskip]

/-- The order of R270, stage by stage of `ppuTick`. -/
theorem runDotOps_stages (m0 m : Mach) : runDotOps c m0 dotOrder m =
    runDotOps c m0 [.posAdvance, .posSkip] (runDotOps c m0 [.spLoad, .spClear]
      (runDotOps c m0 lineOps (runDotOps c m0 fetchOps
        (runDotOps c m0 [.pixel] (runDotOps c m0 [.vblSet, .flagsClr] m))))) := rfl

theorem runDotOps_dotOrder (hs : m.ppu.scanline ≤ 261) (hc : m.ppu.cycle ≤ 340) :
    runDotOps c m dotOrder m = ppuTick c m := by
  rw [runDotOps_stages, runDotOps_flags, runDotOps_pixel, runDotOps_pipeline, runDotOps_sprites]
  exact runDotOps_position hs hc (dotWork_dotFrame c m)

/-- A dot of the frame has its position step (R307, R308). -/
theorem dotOrder_any_selected (hs : m.ppu.scanline ≤ 261) (hc : m.ppu.cycle ≤ 340) :
    dotOrder.any (selected · m) = true := by
  rw [List.any_eq_true]
  cases h : skipDot m.ppu with
  | true => exact ⟨.posSkip, by decide, h⟩
  | false => exact ⟨.posAdvance, by decide, by simp [selected, hs, hc, h]⟩

/-- Settles O38: stage by stage of `ppuTick`. -/
theorem dotRunsSelectedOperationsInOrder : Obligations.DotRunsSelectedOperationsInOrder := by
  unfold Obligations.DotRunsSelectedOperationsInOrder
  intro s hs hc
  refine ⟨_, runSelected_dotOps s.machine dotOrder (List.Subset.refl _) s, ?_⟩
  rw [runDotOps_dotOrder hs hc, dotOrder_any_selected hs hc]
  rfl

/-! ## The length of a frame -/

theorem ppuTick_skip (h : m.ppu.scanline = 261) (h' : m.ppu.cycle = 339) (ho : m.ppu.frame % 2 = 1) :
    (ppuTick c m).ppu.scanline = 0 ∧ (ppuTick c m).ppu.cycle = 0 ∧ (ppuTick c m).ppu.frame = m.ppu.frame + 1 := by
  have hd := dotWork_dotFrame c m
  have e : dotPosition (dotWork c m) = posSkip (dotWork c m) :=
    if_pos (by rw [hd.scanline, hd.cycle, hd.frame]; exact ⟨h, h', ho⟩)
  rw [ppuTick_eq_dotWork, e]
  exact ⟨rfl, rfl, congrArg (· + 1) hd.frame⟩

/-- A dot that does not end the frame moves to the next dot of it. -/
theorem ppuTick_next (h : m.ppu.scanline ≤ 261) (h' : m.ppu.cycle ≤ 340)
    (hlast : m.ppu.scanline * 341 + m.ppu.cycle + 1 < if m.ppu.frame % 2 = 0 then 89342 else 89341) :
    (ppuTick c m).ppu.frame = m.ppu.frame ∧ (ppuTick c m).ppu.cycle ≤ 340 ∧
    (ppuTick c m).ppu.scanline * 341 + (ppuTick c m).ppu.cycle = m.ppu.scanline * 341 + m.ppu.cycle + 1 := by
  have hd := dotWork_dotFrame c m
  have hns : ¬ (m.ppu.scanline = 261 ∧ m.ppu.cycle = 339 ∧ m.ppu.frame % 2 = 1) := by
    rintro ⟨hs, hc, ho⟩
    rw [hs, hc, ho] at hlast
    exact absurd hlast (by decide)
  have e : dotPosition (dotWork c m) = posAdvance (dotWork c m) :=
    if_neg (by rw [hd.scanline, hd.cycle, hd.frame]; exact hns)
  rw [ppuTick_eq_dotWork, e]
  rcases Nat.lt_or_ge m.ppu.cycle 340 with hc | hc
  · rw [posAdvance_dot (by rw [hd.cycle]; exact hc)]
    rw [Mach.setPpu_ppu, hd.cycle]
    refine ⟨hd.frame, hc, ?_⟩
    show (dotWork c m).ppu.scanline * 341 + (m.ppu.cycle + 1) = _
    rw [hd.scanline, Nat.add_assoc]
  · have hs : m.ppu.scanline < 261 := by split at hlast <;> omega
    rw [posAdvance_line (by rw [hd.cycle]; exact hc) (by rw [hd.scanline]; exact hs)]
    refine ⟨hd.frame, Nat.zero_le _, ?_⟩
    show ((dotWork c m).ppu.scanline + 1) * 341 + 0 = _
    rw [hd.scanline]
    omega

/-- The last dot of a frame (R307, R308). -/
theorem ppuTick_last (h : m.ppu.cycle ≤ 340)
    (hlast : m.ppu.scanline * 341 + m.ppu.cycle + 1 = if m.ppu.frame % 2 = 0 then 89342 else 89341) :
    (ppuTick c m).ppu.frame = m.ppu.frame + 1 ∧ (ppuTick c m).ppu.scanline = 0 ∧ (ppuTick c m).ppu.cycle = 0 := by
  have hd := dotWork_dotFrame c m
  rcases Nat.mod_two_eq_zero_or_one m.ppu.frame with hf | hf
  · rw [if_pos hf] at hlast
    have e : dotPosition (dotWork c m) = posAdvance (dotWork c m) :=
      if_neg (by rw [hd.frame, hf]; simp)
    rw [ppuTick_eq_dotWork, e, posAdvance_frame (by rw [hd.cycle]; omega) (by rw [hd.scanline]; omega)]
    exact ⟨congrArg (· + 1) hd.frame, rfl, rfl⟩
  · rw [if_neg (by omega)] at hlast
    obtain ⟨hs, hc, hf'⟩ := ppuTick_skip (c := c) (m := m) (by omega) (by omega) hf
    exact ⟨hf', hs, hc⟩

/-- Dot `k` of the frame `f`. -/
structure AtDot (f k : Nat) (m : Mach) : Prop where
  frame : m.ppu.frame = f
  dot : m.ppu.scanline * 341 + m.ppu.cycle = k
  cycle : m.ppu.cycle ≤ 340

theorem ppuTick_iterate_atDot {f : Nat} (h : AtDot f 0 m) (k : Nat) (hk : k < if f % 2 = 0 then 89342 else 89341) :
    AtDot f k ((ppuTick c)^[k] m) := by
  induction k with
  | zero => exact h
  | succ k ih =>
    obtain ⟨hf, hd, hc⟩ := ih (Nat.lt_of_succ_lt hk)
    rw [Function.iterate_succ_apply']
    have hs : ((ppuTick c)^[k] m).ppu.scanline ≤ 261 := by split at hk <;> omega
    obtain ⟨hf', hc', hd'⟩ := ppuTick_next (c := c) hs hc (by rw [hf, hd]; exact hk)
    exact ⟨hf'.trans hf, by rw [hd', hd], hc'⟩

/-- Settles O39, by induction on the dots of the frame. -/
theorem frameTakesItsNumberOfDots : Obligations.FrameTakesItsNumberOfDots := by
  unfold Obligations.FrameTakesItsNumberOfDots
  intro c m hs hc n
  have h0 : AtDot m.ppu.frame 0 m := ⟨rfl, by rw [hs, hc], by rw [hc]; decide⟩
  refine ⟨fun k hk => ?_, ?_⟩
  · obtain ⟨hf, hd, hcy⟩ := ppuTick_iterate_atDot (c := c) h0 k hk
    exact ⟨hf, hd, hcy⟩
  · have hn : n = n - 1 + 1 := by
      show (if _ then _ else _) = (if _ then _ else _) - 1 + 1
      split <;> rfl
    obtain ⟨hf, hd, hcy⟩ := ppuTick_iterate_atDot (c := c) h0 (n - 1) (by show n - 1 < n; omega)
    rw [hn, Function.iterate_succ_apply']
    obtain ⟨hf', hs', hc'⟩ := ppuTick_last (c := c) hcy (by rw [hf, hd, ← hn])
    exact ⟨hf'.trans (congrArg (· + 1) hf), hs', hc'⟩

/-! ## The flags in a dot -/

/-- The vertical-blank, the sprite-0 and the overflow flag. -/
def flags (m : Mach) : Bool × Bool × Bool := (m.ppu.vblank, m.ppu.sprite0Hit, m.ppu.overflow)

theorem flags_ite {p : Prop} [Decidable p] {f : Mach → Mach} (hf : ∀ x, flags (f x) = flags x) :
    flags (if p then f m else m) = flags m := by
  split
  · exact hf m
  · rfl

theorem ppuRead_flags (a : PpuAddr) : flags (ppuRead c a m).2 = flags m := by
  unfold flags
  rw [ppuRead_ppu]

theorem dotFetch_flags (cy : Nat) : flags (dotFetch c cy m) = flags m := by
  unfold dotFetch
  split
  · exact ppuRead_flags (ntAddr m.ppu.v)
  · exact ppuRead_flags (atAddr m.ppu.v)
  · exact ppuRead_flags (bgPatternAddr m.ppu.ctrl m.ppu.ntByte m.ppu.v)
  · exact ppuRead_flags (bgPatternAddr m.ppu.ctrl m.ppu.ntByte m.ppu.v + 8)
  · rfl
  · rfl

theorem dotPipeline_flags (s cy : Nat) (m : Mach) : flags (dotPipeline c s cy m) = flags m :=
  (flags_ite (f := bgDummyNt c) fun x => ppuRead_flags (ntAddr x.ppu.v)).trans <|
    (flags_ite (f := vCopyY) fun _ => rfl).trans <| (flags_ite (f := vCopyX) fun _ => rfl).trans <|
    (flags_ite (f := vIncY) fun _ => rfl).trans <|
    flags_ite (f := fun x => dotFetch c cy (bgShift x)) fun x => dotFetch_flags (m := bgShift x) cy

theorem dotPosition_flags (m : Mach) : flags (dotPosition m) = flags m := by
  obtain ⟨s, cy, f, e⟩ := dotPosition_eq_setPpu m
  rw [e]
  rfl

theorem dotFlags_flags (s cy : Nat) (m : Mach) : flags (dotFlags s cy m) =
    (decide (s = 241 ∧ cy = 1) || (m.ppu.vblank && !decide (s = 261 ∧ cy = 1)),
     m.ppu.sprite0Hit && !decide (s = 261 ∧ cy = 1), m.ppu.overflow && !decide (s = 261 ∧ cy = 1)) := by
  unfold dotFlags
  by_cases hclr : s = 261 ∧ cy = 1
  · have hset : ¬(s = 241 ∧ cy = 1) := by omega
    rw [if_pos hclr, decide_eq_true hclr, decide_eq_false hset, Bool.not_true, Bool.and_false, Bool.and_false,
      Bool.and_false]
    rfl
  · simp only [hclr, if_false, decide_false, Bool.not_false, Bool.and_true]
    by_cases hset : s = 241 ∧ cy = 1
    · rw [if_pos hset, vblSet_eq, decide_eq_true hset]
      rfl
    · rw [if_neg hset, decide_eq_false hset]
      rfl

/-- The pixel may raise the sprite-0 flag, where it is drawn. -/
theorem dotPixel_flags (s cy : Nat) (m : Mach) : ∃ b, flags (dotPixel c s cy m) =
    ((flags m).1, (flags m).2.1 || (decide (s ≤ 239 ∧ 1 ≤ cy ∧ cy ≤ 256) && b), (flags m).2.2) := by
  by_cases h : s ≤ 239 ∧ 1 ≤ cy ∧ cy ≤ 256
  · refine ⟨hitCondition (bgPixel m.ppu (m.ppu.cycle - 1)) (spPixel m.ppu (m.ppu.cycle - 1)), ?_⟩
    unfold dotPixel
    rw [if_pos h, decide_eq_true h, Bool.true_and]
    rfl
  · refine ⟨false, ?_⟩
    unfold dotPixel
    rw [if_neg h, Bool.and_false, Bool.or_false]

/-- The evaluation may raise the overflow flag, where it runs. -/
theorem dotSprites_flags (s cy : Nat) (r : Bool) (m : Mach) : ∃ b, flags (dotSprites c s cy r m) =
    ((flags m).1, (flags m).2.1, (flags m).2.2 || (decide (s ≤ 239 ∧ cy = 257 ∧ r = true) && b)) := by
  unfold dotSprites
  by_cases h : s ≤ 239 ∧ cy = 257 ∧ r = true
  · refine ⟨decide (8 < ((List.range 64).filter (entryInRange m.ppu)).length), ?_⟩
    obtain ⟨hs, hcy, hr⟩ := h
    simp only [renderLine, hs, hcy, hr, decide_true, Bool.true_or, beq_self_eq_true, Bool.true_and, and_self, if_true]
    rw [spLoad_counts]
    rfl
  · refine ⟨false, ?_⟩
    rw [Bool.and_false, Bool.or_false]
    split
    · next hrun =>
      rw [if_neg fun hload => h ?_]
      · rfl
      · simp only [Bool.and_eq_true, decide_eq_true_eq, beq_iff_eq] at hload hrun
        exact ⟨hload.1, hrun.2, hload.2⟩
    · rfl

/-- What one dot does to the flags. -/
theorem ppuTick_flags (c : Cfg) (m : Mach) : ∃ hit many, flags (ppuTick c m) =
    (decide (m.ppu.scanline = 241 ∧ m.ppu.cycle = 1) ||
       (m.ppu.vblank && !decide (m.ppu.scanline = 261 ∧ m.ppu.cycle = 1)),
     (m.ppu.sprite0Hit && !decide (m.ppu.scanline = 261 ∧ m.ppu.cycle = 1)) ||
       (decide (m.ppu.scanline ≤ 239 ∧ 1 ≤ m.ppu.cycle ∧ m.ppu.cycle ≤ 256) && hit),
     (m.ppu.overflow && !decide (m.ppu.scanline = 261 ∧ m.ppu.cycle = 1)) ||
       (decide (m.ppu.scanline ≤ 239 ∧ m.ppu.cycle = 257 ∧ rendering m.ppu.mask = true) && many)) := by
  obtain ⟨hit, hp⟩ := dotPixel_flags (c := c) m.ppu.scanline m.ppu.cycle (dotFlags m.ppu.scanline m.ppu.cycle m)
  obtain ⟨many, hs⟩ := dotSprites_flags (c := c) m.ppu.scanline m.ppu.cycle (rendering m.ppu.mask)
    (if renderLine m.ppu.scanline && rendering m.ppu.mask then dotPipeline c m.ppu.scanline m.ppu.cycle
      (dotPixel c m.ppu.scanline m.ppu.cycle (dotFlags m.ppu.scanline m.ppu.cycle m))
     else dotPixel c m.ppu.scanline m.ppu.cycle (dotFlags m.ppu.scanline m.ppu.cycle m))
  refine ⟨hit, many, (dotPosition_flags _).trans (hs.trans ?_)⟩
  rw [flags_ite (dotPipeline_flags m.ppu.scanline m.ppu.cycle), hp, dotFlags_flags]

theorem dotFlags_cpu (s cy : Nat) (m : Mach) : (dotFlags s cy m).cpu =
    { m.cpu with nmiPending := m.cpu.nmiPending || (decide (s = 241 ∧ cy = 1) && m.ppu.ctrl.getLsbD 7) } := by
  have hclr : (dotFlags s cy m).cpu = (if s = 241 ∧ cy = 1 then vblSet m else m).cpu :=
    cpu_ite (f := flagsClr) fun _ => rfl
  rw [hclr]
  by_cases h : s = 241 ∧ cy = 1
  · rw [if_pos h, vblSet_eq, decide_eq_true h, Bool.true_and]
  · rw [if_neg h, decide_eq_false h, Bool.false_and, Bool.or_false]

/-- A dot changes nothing else of the ports and memories (R270). -/
theorem ppuTick_ports (c : Cfg) (m : Mach) :
    (ppuTick c m).ppu.ctrl = m.ppu.ctrl ∧ (ppuTick c m).ppu.mask = m.ppu.mask ∧
    (ppuTick c m).ppu.oamAddr = m.ppu.oamAddr ∧ (ppuTick c m).ppu.t = m.ppu.t ∧
    (ppuTick c m).ppu.x = m.ppu.x ∧ (ppuTick c m).ppu.w = m.ppu.w ∧
    (ppuTick c m).ppu.readBuffer = m.ppu.readBuffer ∧ (ppuTick c m).ppu.oam = m.ppu.oam ∧
    (ppuTick c m).ppu.vram = m.ppu.vram ∧ (ppuTick c m).ppu.palette = m.ppu.palette := by
  have h := dotWork_dotFrame c m
  obtain ⟨s, cy, f, e⟩ := dotPosition_eq_setPpu (dotWork c m)
  rw [ppuTick_eq_dotWork, e]
  exact ⟨h.ctrl, h.mask, h.oamAddr, h.t, h.x, h.w, h.readBuffer, h.oam, h.vram, h.palette⟩

/-- Settles O40. -/
theorem dotChangesFlagsOnlyAtTheirDots : Obligations.DotChangesFlagsOnlyAtTheirDots := by
  unfold Obligations.DotChangesFlagsOnlyAtTheirDots
  intro c m t setDot clrDot
  obtain ⟨hit, many, hflags⟩ := ppuTick_flags c m
  have hv : t.ppu.vblank = (setDot || (m.ppu.vblank && !clrDot)) := congrArg Prod.fst hflags
  have hs : t.ppu.sprite0Hit = ((m.ppu.sprite0Hit && !clrDot) || (decide _ && hit)) := congrArg (·.2.1) hflags
  have ho : t.ppu.overflow = ((m.ppu.overflow && !clrDot) || (decide _ && many)) := congrArg (·.2.2) hflags
  have h := ppuTick_frame c m
  refine ⟨hv, (ppuTick_cpu c m).trans (dotFlags_cpu ..), fun hclr => ?_, fun hclr => ⟨fun hm => ?_, fun hm => ?_⟩,
    fun hm ht => ?_, fun hm ht => ?_, ⟨h.core, h.dma, h.bus, h.pad0, h.pad1, h.audio⟩, ppuTick_ports c m⟩
  · obtain ⟨hline, hcycle⟩ : m.ppu.scanline = 261 ∧ m.ppu.cycle = 1 := of_decide_eq_true hclr
    rw [hs, ho, hclr, hline, hcycle]
    exact ⟨by simp, by simp⟩
  · rw [hs, hm, hclr]
    rfl
  · rw [ho, hm, hclr]
    rfl
  · rw [hs, hm, Bool.false_and, Bool.false_or, Bool.and_eq_true] at ht
    exact of_decide_eq_true ht.1
  · rw [ho, hm, Bool.false_and, Bool.false_or, Bool.and_eq_true] at ht
    obtain ⟨hl, hcy, hr⟩ := of_decide_eq_true ht.1
    exact ⟨hl, hcy, Bool.or_eq_true_iff.mp hr⟩

end Sys2Proof.Machine

/-! PROOF. The processor driver (R381 to R393, R400): the core's program over the bus, and a CPU cycle as its one selected
operation, in the six cases of what is pending. -/

namespace Sys2Proof.Machine

variable {c : Cfg} {m : Mach}

/-! ## The simple cycles -/

theorem one_add_mod_two (n : Nat) : 1 + n % 2 = if n % 2 = 0 then 1 else 2 := by
  split <;> omega

/-- Settles O41. -/
theorem burnStartAndWaitCycles : Obligations.BurnStartAndWaitCycles := by
  unfold Obligations.BurnStartAndWaitCycles
  refine fun s => ⟨rfl, ?_, rfl⟩
  rw [← one_add_mod_two]
  rfl

/-! ## The core -/

/-- The choice of a core step (R384). -/
theorem coreStep_choice (k : CoreSpec) (core : Opaque) (input : CoreIn) :
    (input.nmi = true → coreStep k core input = k.nmiEntry core input) ∧
    (input.nmi = false → input.irq = true → k.irqPermitted core = true →
      coreStep k core input = k.irqEntry core input) ∧
    (input.nmi = false → (input.irq = false ∨ k.irqPermitted core = false) →
      coreStep k core input = k.instruction core input) := by
  refine ⟨fun h => if_pos h, fun h hi hp => ?_, fun h hi => ?_⟩
  · simp [coreStep, h, hi, hp]
  · rcases hi with hi | hi <;> simp [coreStep, h, hi]

/-- A core step in terms of the program it runs. -/
theorem cpuStep_eq (c : Cfg) (m : Mach) : cpuStep c m =
    { (runProg c (coreStep c.core m.core (coreInput m)) m).2 with
      core := (runProg c (coreStep c.core m.core (coreInput m)) m).1.1
      cpu := { m.cpu with
        busy := (runProg c (coreStep c.core m.core (coreInput m)) m).1.2 - 1, nmiPending := false } } := by
  unfold cpuStep
  simp only [(runProg_frame c (coreStep c.core m.core (coreInput m)) m).cpu, nmiAfter_coreInput]
  rfl

/-- Settles O42. -/
theorem coreStepRunsProgramAndClearsNmi : Obligations.CoreStepRunsProgramAndClearsNmi := by
  unfold Obligations.CoreStepRunsProgramAndClearsNmi
  intro s
  obtain ⟨hnmi, hirq, hinstruction⟩ := coreStep_choice Config.cfg.core s.machine.core (coreInput s.machine)
  exact ⟨_, _, hnmi, hirq, hinstruction, rfl, runProg_cycles_pos ..,
    congrArg (answerMach s) (cpuStep_eq Config.cfg s.machine)⟩

/-- A program leaves what the accesses of its trace leave. -/
theorem runProg_eq_foldl_busTrace (pr : Prog) (m : Mach) :
    (runProg c pr m).2 = (busTrace c pr m).foldl (fun x e => match e.2 with
      | none => (busRead c e.1 x).2
      | some d => busWrite c e.1 d x) m := by
  induction pr generalizing m with
  | done core extra => rfl
  | read a k ih => exact ih _ _
  | write a d k ih => exact ih _

/-- Settles O43. -/
theorem coreProgramActsThroughTheBusOnly : Obligations.CoreProgramActsThroughTheBusOnly := by
  unfold Obligations.CoreProgramActsThroughTheBusOnly
  refine ⟨fun c core extra m => ⟨rfl, rfl⟩, fun c a k m => ⟨_, _, rfl, rfl, rfl⟩, fun c a d k m => ⟨rfl, rfl⟩,
    fun c pr m => ?_⟩
  have h := runProg_frame c pr m
  exact ⟨runProg_eq_foldl_busTrace pr m, runProg_cycles_pos .., h.core, h.cpu, h.scanline, h.cycle, h.frame, h.fb,
    h.live0, h.live1⟩

/-! ## The work of a CPU cycle, case by case (R381, R388) -/

theorem cycleWork_burn (h : 0 < m.cpu.busy) : cycleWork c m = cpuBurn m := if_pos h

theorem cycleWork_dma (h : m.cpu.busy = 0) (hd : m.dma.request = true ∨ m.dma.active = true) :
    cycleWork c m = dmaCycle c m := by
  unfold cycleWork
  rw [if_neg (by omega), if_pos (Bool.or_eq_true_iff.mpr hd)]

theorem cycleWork_step (h : m.cpu.busy = 0) (hr : m.dma.request = false) (ha : m.dma.active = false) :
    cycleWork c m = cpuStep c m := by
  unfold cycleWork
  rw [if_neg (by omega), hr, ha]
  rfl

theorem dmaCycle_start (hr : m.dma.request = true) (ha : m.dma.active = false) :
    dmaCycle c m = dmaWait (dmaStart m) := by
  have hw : 0 < (dmaStart m).dma.wait := Nat.lt_of_lt_of_le Nat.zero_lt_one (Nat.le_add_right 1 _)
  unfold dmaCycle
  simp only [hr, ha, Bool.not_false, Bool.and_self, if_true, hw]

theorem dmaCycle_wait (ha : m.dma.active = true) (hw : 0 < m.dma.wait) : dmaCycle c m = dmaWait m := by
  unfold dmaCycle
  simp only [ha, Bool.not_true, Bool.and_false, Bool.false_eq_true, if_false, hw, if_true]

theorem dmaCycle_read (ha : m.dma.active = true) (hw : m.dma.wait = 0) (hp : m.dma.phase = .read) :
    dmaCycle c m = dmaRead c m := by
  unfold dmaCycle
  simp only [ha, Bool.not_true, Bool.and_false, Bool.false_eq_true, if_false, hw, lt_irrefl, hp]

theorem dmaCycle_write (ha : m.dma.active = true) (hw : m.dma.wait = 0) (hp : m.dma.phase = .write) :
    dmaCycle c m = dmaWrite m := by
  unfold dmaCycle
  simp only [ha, Bool.not_true, Bool.and_false, Bool.false_eq_true, if_false, hw, lt_irrefl, hp]

/-- A CPU cycle is its work on the Machine with the IRQ sampled and the audio ticked, and the cycle counted. -/
theorem cpuCycle_of_cycleWork {w : Mach} (hw : cycleWork c (cycleStart c m) = w) :
    cpuCycle c m = { w with cpu := { w.cpu with cycles := m.cpu.cycles + 1 } } := by
  have h := cycleWork_cycles c (cycleStart c m)
  rw [cycleStart_cycles, hw] at h
  unfold cpuCycle cycleEnd
  rw [hw, h]
  rfl

/-- Settles O44. -/
theorem cpuCycleRunsTheOneSelectedOperation : Obligations.CpuCycleRunsTheOneSelectedOperation := by
  unfold Obligations.CpuCycleRunsTheOneSelectedOperation
  intro s
  rcases Nat.eq_zero_or_pos s.machine.cpu.busy with hb | hb
  · cases ha : s.machine.dma.active with
    | false =>
      cases hr : s.machine.dma.request with
      | false => exact ⟨.cpuStep, _, by simp [driverOperations, selected, hb, ha, hr], rfl,
          fun _ => cpuCycle_of_cycleWork (cycleWork_step hb hr ha), nofun⟩
      | true => exact ⟨.dmaStart, _, by simp [driverOperations, selected, hb, ha, hr], rfl, fun h => absurd rfl h,
          fun _ => ⟨_, rfl, cpuCycle_of_cycleWork
            ((cycleWork_dma (m := cycleStart Config.cfg s.machine) hb (.inl hr)).trans (dmaCycle_start hr ha))⟩⟩
    | true =>
      have hdma := cycleWork_dma (c := Config.cfg) (m := cycleStart Config.cfg s.machine) hb (.inr ha)
      rcases Nat.eq_zero_or_pos s.machine.dma.wait with hw | hw
      · cases hp : s.machine.dma.phase with
        | read => exact ⟨.dmaRead, _, by simp [driverOperations, selected, hb, ha, hw, hp], rfl,
            fun _ => cpuCycle_of_cycleWork (hdma.trans (dmaCycle_read ha hw hp)), nofun⟩
        | write => exact ⟨.dmaWrite, _, by simp [driverOperations, selected, hb, ha, hw, hp], rfl,
            fun _ => cpuCycle_of_cycleWork (hdma.trans (dmaCycle_write ha hw hp)), nofun⟩
      · exact ⟨.dmaWait, _, by simp [driverOperations, selected, hb, ha, hw, Nat.ne_of_gt hw], rfl,
          fun _ => cpuCycle_of_cycleWork (hdma.trans (dmaCycle_wait ha hw)), nofun⟩
  · exact ⟨.cpuBurn, _, by simp [driverOperations, selected, hb, Nat.ne_of_gt hb], rfl,
      fun _ => cpuCycle_of_cycleWork (cycleWork_burn hb), nofun⟩

end Sys2Proof.Machine

/-! PROOF. Many machine cycles: a whole DMA transfer (R401), carried through its cycles by one description of the engine
and of what it has copied; and `exec` as iterated machine cycles (R396, R397, R399). -/

namespace Sys2Proof.Machine

variable {c : Cfg} {m m0 : Mach}

/-! ## A machine cycle that runs the DMA engine -/

/-- The Machine on which a machine cycle does its work. -/
def cycleEntry (c : Cfg) (m : Mach) : Mach := cycleStart c ((ppuTick c)^[Config.ppuPerCpu] m)

theorem machineCycle_eq (c : Cfg) (m : Mach) : machineCycle c m = cycleEnd (cycleWork c (cycleEntry c m)) := rfl

/-- What that Machine shares with the one before the cycle. -/
structure EntryFrame (m m' : Mach) : Prop where
  core : m'.core = m.core
  busy : m'.cpu.busy = m.cpu.busy
  cycles : m'.cpu.cycles = m.cpu.cycles
  dma : m'.dma = m.dma
  bus : m'.bus = m.bus
  oamAddr : m'.ppu.oamAddr = m.ppu.oamAddr
  oam : m'.ppu.oam = m.ppu.oam

theorem cycleEntry_frame (c : Cfg) (m : Mach) : EntryFrame m (cycleEntry c m) := by
  have h := ppuTick3_frame c m
  unfold cycleEntry
  generalize (ppuTick c)^[Config.ppuPerCpu] m = x at h ⊢
  exact ⟨h.core, h.busy, h.cycles, h.dma, h.bus, h.oamAddr, h.oam⟩

theorem dataRead_dma (c : Cfg) (m : Mach) : (dataRead c m).2.dma = m.dma := by
  unfold dataRead
  dsimp only
  split
  · rw [ppuRead_eq_setCart]
    rfl
  · rw [ppuRead_eq_setCart c _ (ppuRead c _ m).2, ppuRead_eq_setCart c _ m]
    rfl

/-- No bus read touches the DMA engine. -/
theorem busRead_dma (c : Cfg) (a : Addr) (m : Mach) : (busRead c a m).2.dma = m.dma := by
  show (readTarget c a m).2.dma = m.dma
  unfold readTarget
  cases cpuReadOp a with
  | ppuData => exact dataRead_dma c m
  | joy1 => rfl
  | joy2 => rfl
  | cart => dsimp only; unfold cartRead; split <;> rfl
  | _ => rfl

theorem busRead_ram_setOpenBus {a : Addr} (h : a.toNat < 0x2000) (m : Mach) :
    (busRead c a m).2 = m.setOpenBus (Memory.read m.bus.ram (ramIndex a)) := by
  simp [busRead, readTarget, cpuReadOp_ranges, h, latchRead, ramRead]

/-! ## A transfer on its way -/

/-- The byte a transfer from a page in RAM moves at index `i`. -/
def pageByte (m0 : Mach) (i : Nat) : Byte := Memory.read m0.bus.ram ((m0.dma.page.toNat * 256 + i) % 2048)

/-- The first `i` bytes of the page are in OAM, from the OAM address on. -/
structure Copied (m0 : Mach) (i : Nat) (m : Mach) : Prop where
  ram : m.bus.ram = m0.bus.ram
  oamAddr : m.ppu.oamAddr.toNat = (m0.ppu.oamAddr.toNat + i) % 256
  bytes : ∀ j, j < i → Memory.read m.ppu.oam ((m0.ppu.oamAddr.toNat + j) % 256) = pageByte m0 j

/-- The transfer requested in `m0` with `w` wait cycles to go, at index `i` and phase `ph`. -/
structure Transfer (m0 : Mach) (w i : Nat) (ph : DmaPhase) (m : Mach) : Prop where
  busy : m.cpu.busy = 0
  core : m.core = m0.core
  request : m.dma.request = false
  active : m.dma.active = true
  page : m.dma.page = m0.dma.page
  wait : m.dma.wait = w
  index : m.dma.index.toNat = i
  phase : m.dma.phase = ph
  copied : m0.dma.page.toNat < 0x20 → Copied m0 i m
  latch : m0.dma.page.toNat < 0x20 → ph = .write → m.dma.latch = pageByte m0 i

/-- A transfer that has ended. -/
structure Transferred (m0 m : Mach) : Prop where
  busy : m.cpu.busy = 0
  core : m.core = m0.core
  request : m.dma.request = false
  active : m.dma.active = false
  copied : m0.dma.page.toNat < 0x20 → Copied m0 256 m

theorem Copied.of_same {m' : Mach} {i : Nat} (h : Copied m0 i m) (hram : m'.bus.ram = m.bus.ram)
    (haddr : m'.ppu.oamAddr = m.ppu.oamAddr) (hoam : m'.ppu.oam = m.ppu.oam) : Copied m0 i m' :=
  ⟨hram.trans h.ram, haddr ▸ h.oamAddr, hoam ▸ h.bytes⟩

theorem Copied.zero (m : Mach) : Copied m 0 m :=
  ⟨rfl, (Nat.mod_eq_of_lt m.ppu.oamAddr.isLt).symm, nofun⟩

/-- The start, spent as a wait cycle (R388). -/
theorem transfer_start {x : Mach} (h : EntryFrame m x) (hb : m.cpu.busy = 0) :
    Transfer m (m.cpu.cycles % 2) 0 .read (cycleEnd (dmaWait (dmaStart x))) := by
  have hwait : 1 + x.cpu.cycles % 2 - 1 = m.cpu.cycles % 2 := by rw [h.cycles, Nat.add_sub_cancel_left]
  have hpage : x.dma.page = m.dma.page := congrArg Dma.page h.dma
  exact ⟨h.busy.trans hb, h.core, rfl, rfl, hpage, hwait, rfl, rfl,
    fun _ => (Copied.zero m).of_same (congrArg Bus.ram h.bus) h.oamAddr h.oam, nofun⟩

section step

variable {w i : Nat} {ph : DmaPhase}

theorem Transfer.wait_step (h : Transfer m0 (w + 1) i ph m) : Transfer m0 w i ph (cycleEnd (dmaCycle c m)) := by
  rw [dmaCycle_wait h.active (by rw [h.wait]; exact Nat.succ_pos w)]
  exact ⟨h.busy, h.core, h.request, h.active, h.page, congrArg (· - 1) h.wait, h.index, h.phase,
    fun hp => (h.copied hp).of_same rfl rfl rfl, h.latch⟩

theorem Transfer.index_lt (h : Transfer m0 w i ph m) : i < 256 := h.index ▸ m.dma.index.isLt

/-- The read half, from the address `a` (R391). -/
theorem Transfer.read_step_at {a : Addr} (h : Transfer m0 0 i .read m) (ha : a.toNat = m0.dma.page.toNat * 256 + i) :
    Transfer m0 0 i .write (cycleEnd (dmaCycle c m)) := by
  have hf := busRead_frame c a m
  have hd := busRead_dma c a m
  have hram : m0.dma.page.toNat < 0x20 → a.toNat < 0x2000 := by
    have := h.index_lt
    omega
  rw [dmaCycle_read h.active h.wait h.phase, dmaRead_eq (c := c) (by rw [h.page, h.index]; exact ha)]
  refine ⟨(congrArg Cpu.busy hf.cpu).trans h.busy, hf.core.trans h.core, (congrArg Dma.request hd).trans h.request,
    (congrArg Dma.active hd).trans h.active, (congrArg Dma.page hd).trans h.page,
    (congrArg Dma.wait hd).trans h.wait, (congrArg (fun d : Dma => d.index.toNat) hd).trans h.index, rfl,
    fun hp => ?_, fun hp _ => ?_⟩
  · have hs := busRead_ram_setOpenBus (c := c) (hram hp) m
    exact (h.copied hp).of_same (congrArg (·.bus.ram) hs) (congrArg (·.ppu.oamAddr) hs) (congrArg (·.ppu.oam) hs)
  · refine (busRead_ram (hram hp) m).trans ?_
    rw [(h.copied hp).ram, ramIndex_eq, ha]
    rfl

theorem Transfer.read_step (h : Transfer m0 0 i .read m) : Transfer m0 0 i .write (cycleEnd (dmaCycle c m)) := by
  have := h.index_lt
  have := m0.dma.page.isLt
  exact h.read_step_at (a := BitVec.ofNat 16 (m0.dma.page.toNat * 256 + i)) (Nat.mod_eq_of_lt (by omega))

/-- The OAM store of a write half: one byte more. -/
theorem Copied.store (h : Copied m0 i m) (hi : i < 256) : Copied m0 (i + 1) (oamStore (pageByte m0 i) m) := by
  have haddr := h.oamAddr
  refine ⟨h.ram, ?_, fun j hj => (Memory.read_write _ _ _ _).trans ?_⟩
  · show (m.ppu.oamAddr + 1).toNat = _
    rw [byte_succ, BitVec.toNat_ofNat, haddr]
    omega
  · rcases Nat.lt_succ_iff_lt_or_eq.mp hj with hlt | rfl
    · rw [if_neg (by omega), h.bytes j hlt]
    · rw [if_pos haddr.symm]

theorem Transfer.write_step_eq (h : Transfer m0 0 i .write m) : dmaCycle c m =
    (oamStore m.dma.latch m).setDma { m.dma with
      phase := .read
      active := if i = 255 then false else m.dma.active
      index := if i = 255 then m.dma.index else m.dma.index + 1 } := by
  rw [dmaCycle_write h.active h.wait h.phase, dmaWrite_eq, h.index]

theorem Transfer.write_step_copied (h : Transfer m0 0 i .write m) (hp : m0.dma.page.toNat < 0x20) :
    Copied m0 (i + 1) (cycleEnd (dmaCycle c m)) := by
  rw [h.write_step_eq, h.latch hp rfl]
  exact ((h.copied hp).store h.index_lt).of_same rfl rfl rfl

theorem Transfer.write_step (h : Transfer m0 0 i .write m) (hi : i < 255) :
    Transfer m0 0 (i + 1) .read (cycleEnd (dmaCycle c m)) := by
  have hindex : (m.dma.index + 1).toNat = i + 1 := by
    rw [byte_succ, BitVec.toNat_ofNat, h.index]
    exact Nat.mod_eq_of_lt (by omega)
  have hcopied := h.write_step_copied (c := c)
  rw [h.write_step_eq, if_neg (by omega), if_neg (by omega)] at hcopied ⊢
  exact ⟨h.busy, h.core, h.request, h.active, h.page, h.wait, hindex, rfl, hcopied, nofun⟩

theorem Transfer.last_step (h : Transfer m0 0 255 .write m) : Transferred m0 (cycleEnd (dmaCycle c m)) := by
  have hcopied := h.write_step_copied (c := c)
  rw [h.write_step_eq, if_pos rfl, if_pos rfl] at hcopied ⊢
  exact ⟨h.busy, h.core, h.request, rfl, hcopied⟩

/-! ## Its machine cycles -/

/-- The dots of a machine cycle leave the transfer where it is. -/
theorem Transfer.entry {x : Mach} (hx : EntryFrame m x) (h : Transfer m0 w i ph m) : Transfer m0 w i ph x := by
  obtain ⟨hcore, hbusy, -, hdma, hbus, haddr, hoam⟩ := hx
  exact ⟨hbusy.trans h.busy, hcore.trans h.core, hdma ▸ h.request, hdma ▸ h.active, hdma ▸ h.page, hdma ▸ h.wait,
    hdma ▸ h.index, hdma ▸ h.phase, fun hp => (h.copied hp).of_same (congrArg Bus.ram hbus) haddr hoam,
    hdma ▸ h.latch⟩

/-- A machine cycle of a transfer is a DMA cycle of it. -/
theorem Transfer.next {P : Mach → Prop} (h : Transfer m0 w i ph m)
    (hP : ∀ x, Transfer m0 w i ph x → P (cycleEnd (dmaCycle c x))) : P (machineCycle c m) := by
  have hx := h.entry (cycleEntry_frame c m)
  rw [machineCycle_eq, cycleWork_dma hx.busy (.inr hx.active)]
  exact hP _ hx

/-- The first machine cycle of a transfer. -/
theorem machineCycle_start (hb : m.cpu.busy = 0) (hr : m.dma.request = true) (ha : m.dma.active = false) :
    Transfer m (m.cpu.cycles % 2) 0 .read (machineCycle c m) := by
  have h := cycleEntry_frame c m
  rw [machineCycle_eq, cycleWork_dma (h.busy.trans hb) (.inl (by rw [h.dma, hr])),
    dmaCycle_start (by rw [h.dma, hr]) (by rw [h.dma, ha])]
  exact transfer_start h hb

/-- Two machine cycles for each byte. -/
theorem Transfer.iterate (h : Transfer m0 0 0 .read m) (hi : i ≤ 255) :
    Transfer m0 0 i .read ((machineCycle c)^[2 * i] m) := by
  induction i with
  | zero => exact h
  | succ i ih =>
    rw [show 2 * (i + 1) = 2 * i + 1 + 1 from rfl, Function.iterate_succ_apply', Function.iterate_succ_apply']
    exact ((ih (by omega)).next fun _ => read_step).next fun _ hx => hx.write_step (by omega)

theorem Transfer.active_iterate (h : Transfer m0 0 0 .read m) {k : Nat} (hk : k < 512) :
    ((machineCycle c)^[k] m).dma.active = true := by
  have hpair := h.iterate (c := c) (i := k / 2) (by omega)
  rcases Nat.mod_two_eq_zero_or_one k with hm | hm
  · rw [show 2 * (k / 2) = k by omega] at hpair
    exact hpair.active
  · rw [show k = 2 * (k / 2) + 1 by omega, Function.iterate_succ_apply']
    exact (hpair.next fun _ => read_step).active

theorem Transfer.transferred (h : Transfer m0 0 0 .read m) : Transferred m0 ((machineCycle c)^[512] m) := by
  rw [show 512 = 2 * 255 + 1 + 1 from rfl, Function.iterate_succ_apply', Function.iterate_succ_apply']
  exact ((h.iterate (Nat.le_refl 255)).next fun _ => read_step).next fun _ => last_step

end step

theorem iterate_cycles (c : Cfg) (m : Mach) (n : Nat) :
    ((machineCycle c)^[n] m).cpu.cycles = m.cpu.cycles + n := by
  induction n with
  | zero => rfl
  | succ n ih => rw [Function.iterate_succ_apply', machineCycle_cycles, ih, Nat.add_assoc]

/-- The engine is at its first read after the start and, on an odd cycle count, one wait cycle more. -/
theorem transfer_first_read (hb : m.cpu.busy = 0) (hr : m.dma.request = true) (ha : m.dma.active = false) :
    Transfer m 0 0 .read ((machineCycle c)^[1 + m.cpu.cycles % 2] m) := by
  have h := machineCycle_start (c := c) hb hr ha
  rcases Nat.mod_two_eq_zero_or_one m.cpu.cycles with hm | hm
  · rw [hm] at h ⊢
    exact h
  · rw [hm] at h ⊢
    exact h.next fun _ => Transfer.wait_step

theorem iterate_split (f : Mach → Mach) (m : Mach) {k n : Nat} (h : n ≤ k) : f^[k] m = f^[k - n] (f^[n] m) := by
  rw [← Function.iterate_add_apply, Nat.sub_add_cancel h]

theorem dmaCycles_eq (n : Nat) :
    (if n % 2 = 0 then Config.dmaCyclesEven else Config.dmaCyclesOdd) = 512 + (1 + n % 2) := by
  simp only [Config.dmaCyclesEven, Config.dmaCyclesOdd]
  split <;> omega

/-- Settles O45. -/
theorem oamDmaStallsAndCopiesThePage : Obligations.OamDmaStallsAndCopiesThePage := by
  unfold Obligations.OamDmaStallsAndCopiesThePage
  intro m hb hr ha
  rw [dmaCycles_eq]
  intro n m'
  have hfirst := transfer_first_read (c := Config.cfg) hb hr ha
  have hm' : m' = (machineCycle Config.cfg)^[512] ((machineCycle Config.cfg)^[1 + m.cpu.cycles % 2] m) :=
    Function.iterate_add_apply ..
  have hend : Transferred m m' := hm' ▸ hfirst.transferred
  refine ⟨fun k hk hkn => ?_, hend.active, hend.request, hend.core, hend.busy, iterate_cycles .., fun hp => ?_⟩
  · rcases Nat.lt_or_ge k (1 + m.cpu.cycles % 2) with hlt | hge
    · have h1 : k = 1 := by omega
      rw [h1]
      exact (machineCycle_start hb hr ha).active
    · rw [iterate_split _ _ hge]
      exact hfirst.active_iterate (by omega)
  · obtain ⟨hram, haddr, hbytes⟩ := hend.copied hp
    refine ⟨hram, BitVec.eq_of_toNat_eq ?_, hbytes⟩
    rw [haddr, Nat.add_mod_right]
    exact Nat.mod_eq_of_lt m.ppu.oamAddr.isLt

/-! ## `exec` -/

theorem burnRest_iterate (c : Cfg) (fuel n : Nat) (m : Mach) (h : m.cpu.busy ≤ fuel) :
    burnRest c fuel n m = (n + m.cpu.busy, (machineCycle c)^[m.cpu.busy] m) := by
  induction fuel generalizing n m with
  | zero =>
    rw [Nat.le_zero.mp h]
    rfl
  | succ f ih =>
    unfold burnRest
    cases hb : m.cpu.busy with
    | zero => rfl
    | succ b =>
      have hburn : (machineCycle c m).cpu.busy = b := by rw [machineCycle_burn (by omega), hb]; rfl
      rw [if_neg (Nat.succ_ne_zero b), ih _ _ (by omega), hburn, Function.iterate_succ_apply, Nat.add_assoc,
        Nat.add_comm 1 b]

/-- A unit is one machine cycle and the cycles it leaves to burn (R396). -/
theorem runUnit_iterate (c : Cfg) (m : Mach) : runUnit c m =
    ((machineCycle c m).cpu.busy + 1, (machineCycle c)^[(machineCycle c m).cpu.busy + 1] m) := by
  unfold runUnit
  rw [burnRest_iterate c _ 1 _ (Nat.le_refl _), Nat.add_comm 1, Function.iterate_succ_apply]

theorem runUnit_count (c : Cfg) (m : Mach) : (runUnit c m).1 = (machineCycle c m).cpu.busy + 1 :=
  congrArg Prod.fst (runUnit_iterate c m)

theorem runUnit_machine (c : Cfg) (m : Mach) : (runUnit c m).2 = (machineCycle c)^[(runUnit c m).1] m := by
  rw [runUnit_count, runUnit_iterate]

theorem iterate_burn {k : Nat} (hk : k ≤ m.cpu.busy) : ((machineCycle c)^[k] m).cpu.busy = m.cpu.busy - k := by
  induction k with
  | zero => rfl
  | succ k ih =>
    have hprev := ih (Nat.le_of_succ_le hk)
    rw [Function.iterate_succ_apply', machineCycle_burn (by omega), hprev]
    omega

/-- No cycle count inside a unit has nothing left to burn. -/
theorem busy_inside_unit {j : Nat} (hj : 0 < j) (hlt : j < (runUnit c m).1) :
    ((machineCycle c)^[j] m).cpu.busy ≠ 0 := by
  obtain ⟨k, rfl⟩ := Nat.exists_eq_add_of_lt hj
  rw [runUnit_count] at hlt
  rw [Nat.zero_add, Function.iterate_succ_apply, iterate_burn (by omega)]
  omega

/-- What the loop of `exec` does, `ticks` counted so far: `k` machine cycles, up to a unit boundary if it starts at one
or below the budget, and past no unit boundary that meets the budget (R397). -/
structure LoopRun (c : Cfg) (budget ticks : Nat) (m : Mach) (k : Nat) (r : Nat × Mach) : Prop where
  count : r.1 = ticks + k
  machine : r.2 = (machineCycle c)^[k] m
  boundary : ticks * 1000000 < budget ∨ m.cpu.busy = 0 → ((machineCycle c)^[k] m).cpu.busy = 0
  minimal : ∀ j, j < k → budget ≤ (ticks + j) * 1000000 → ((machineCycle c)^[j] m).cpu.busy ≠ 0

theorem execLoop_run (c : Cfg) (budget fuel ticks : Nat) (m : Mach) (h : budget ≤ (ticks + fuel) * 1000000) :
    ∃ k, LoopRun c budget ticks m k (execLoop c budget fuel ticks m) := by
  induction fuel generalizing ticks m with
  | zero =>
    rw [Nat.add_zero] at h
    exact ⟨0, rfl, rfl, fun hb => hb.resolve_left (Nat.not_lt.mpr h), nofun⟩
  | succ f ih =>
    rw [execLoop_succ]
    by_cases hlt : ticks * 1000000 < budget
    · have hpos := runUnit_ticks_pos c m
      have hbusy := runUnit_busy c m
      obtain ⟨k, hticks, hmachine, hboundary, hminimal⟩ := ih (ticks + (runUnit c m).1) (runUnit c m).2
        (h.trans (Nat.mul_le_mul_right _ (by omega)))
      have hiter : ∀ i, (machineCycle c)^[i] (runUnit c m).2 = (machineCycle c)^[i + (runUnit c m).1] m := fun i => by
        rw [runUnit_machine, Function.iterate_add_apply]
      rw [if_pos hlt]
      refine ⟨k + (runUnit c m).1, by rw [hticks]; omega, hmachine.trans (hiter k), fun _ => ?_, fun j hj hb => ?_⟩
      · rw [← hiter]
        exact hboundary (.inr hbusy)
      · rcases Nat.lt_or_ge j (runUnit c m).1 with hin | hout
        · have hj0 : 0 < j := Nat.pos_of_ne_zero fun h0 => by
            rw [h0, Nat.add_zero] at hb
            omega
          exact busy_inside_unit hj0 hin
        · have hnext := hminimal (j - (runUnit c m).1) (by omega) (by
            rw [Nat.add_assoc, Nat.add_sub_cancel' hout]
            exact hb)
          rwa [hiter, Nat.sub_add_cancel hout] at hnext
    · rw [if_neg hlt]
      exact ⟨0, rfl, rfl, fun hb => hb.resolve_left hlt, nofun⟩

/-- The place of a dot. -/
def position (m : Mach) : Nat × Nat × Nat := (m.ppu.scanline, m.ppu.cycle, m.ppu.frame)

theorem dotWork_position (c : Cfg) (m : Mach) : position (dotWork c m) = position m := by
  have h := dotWork_dotFrame c m
  unfold position
  rw [h.scanline, h.cycle, h.frame]

/-- The position after a dot, from the position before it. -/
def nextPosition (p : Nat × Nat × Nat) : Nat × Nat × Nat :=
  if p.1 = 261 ∧ p.2.1 = 339 ∧ p.2.2 % 2 = 1 then (0, 0, p.2.2 + 1)
  else if p.2.1 < 340 then (p.1, p.2.1 + 1, p.2.2)
  else if p.1 < 261 then (p.1 + 1, 0, p.2.2)
  else (0, 0, p.2.2 + 1)

theorem dotPosition_position (m : Mach) : position (dotPosition m) = nextPosition (position m) := by
  unfold dotPosition nextPosition
  show _ = if m.ppu.scanline = 261 ∧ m.ppu.cycle = 339 ∧ m.ppu.frame % 2 = 1 then _ else
    if m.ppu.cycle < 340 then _ else if m.ppu.scanline < 261 then _ else _
  split_ifs with hskip hc hs
  · rfl
  · rw [posAdvance_dot hc]; rfl
  · rw [posAdvance_line (Nat.le_of_not_lt hc) hs]; rfl
  · rw [posAdvance_frame (Nat.le_of_not_lt hc) (Nat.le_of_not_lt hs)]; rfl

/-- Where a dot leads depends on the position alone (R307, R308). -/
theorem ppuTick_position (c : Cfg) (m : Mach) : position (ppuTick c m) = nextPosition (position m) := by
  rw [ppuTick_eq_dotWork, dotPosition_position, dotWork_position]

theorem ppuTick_iterate_position (c : Cfg) (n : Nat) (m : Mach) :
    position ((ppuTick c)^[n] m) = nextPosition^[n] (position m) := by
  induction n generalizing m with
  | zero => rfl
  | succ n ih => rw [Function.iterate_succ_apply, ih, ppuTick_position, Function.iterate_succ_apply]

theorem BusFrame.position {m' : Mach} (h : BusFrame m m') : position m' = position m := by
  unfold Machine.position
  rw [h.scanline, h.cycle, h.frame]

theorem dmaCycle_position (c : Cfg) (m : Mach) : position (dmaCycle c m) = position m := by
  unfold dmaCycle
  dsimp only
  have h1 : position (if m.dma.request && !m.dma.active then dmaStart m else m) = position m := by
    split <;> rfl
  generalize (if m.dma.request && !m.dma.active then dmaStart m else m) = x at h1 ⊢
  split
  · exact h1
  · split
    · exact (busRead_frame c _ x).position.trans h1
    · rw [dmaWrite_eq]
      exact h1

theorem cpuCycle_position (c : Cfg) (m : Mach) : position (cpuCycle c m) = position m := by
  show position (cycleWork c (cycleStart c m)) = position (cycleStart c m)
  unfold cycleWork
  split
  · rfl
  · split
    · exact dmaCycle_position c _
    · exact (runProg_frame c _ _).position

theorem machineCycle_iterate_position (c : Cfg) (n : Nat) (m : Mach) :
    position ((machineCycle c)^[n] m) = position ((ppuTick c)^[3 * n] m) := by
  rw [ppuTick_iterate_position]
  induction n generalizing m with
  | zero => rfl
  | succ n ih =>
    have h : position (machineCycle c m) = nextPosition^[3] (position m) :=
      (cpuCycle_position c _).trans (ppuTick_iterate_position c 3 m)
    rw [Function.iterate_succ_apply, ih, h, ← Function.iterate_add_apply, Nat.mul_succ]

theorem machineCycle_three_dots (c : Cfg) (m : Mach) :
    machineCycle c m = cpuCycle c (ppuTick c (ppuTick c (ppuTick c m))) := by
  simp only [machineCycle, Config.ppuPerCpu, Function.iterate_succ_apply, Function.iterate_zero_apply]

/-- Settles O46. -/
theorem execRunsUnitsUntilBudgetIsMet : Obligations.ExecRunsUnitsUntilBudgetIsMet := by
  unfold Obligations.ExecRunsUnitsUntilBudgetIsMet
  have hrun : ∀ (c : Cfg) (t : Nat) (m : Mach), LoopRun c (t * c.cpuHz) 0 m (execTime c t m).1 (execTime c t m) := by
    intro c t m
    obtain ⟨k, h⟩ := execLoop_run c (t * c.cpuHz) _ 0 m (execTime_fuel _)
    have hk : (execTime c t m).1 = k := h.count.trans (Nat.zero_add k)
    rw [hk]
    exact h
  refine ⟨machineCycle_three_dots, fun t s => ?_, fun c t m => ?_, fun c t m => ?_⟩
  · rw [← (hrun Config.cfg t s.machine).machine]
    rfl
  · have h := hrun c t m
    exact ⟨h.machine, execLoop_reaches c _ _ 0 m (execTime_fuel _), fun hb => h.boundary (.inl (by omega)),
      fun j hj hb => h.minimal j hj (by rw [Nat.zero_add]; exact hb)⟩
  · have hp := machineCycle_iterate_position c (execTime c t m).1 m
    rw [← (hrun c t m).machine] at hp
    obtain ⟨hs, hc, hf⟩ := Prod.ext_iff.mp hp |>.imp_right Prod.ext_iff.mp
    exact ⟨hs, hc, hf⟩

end Sys2Proof.Machine

/-! PROOF. The MAPPER operations (R349 to R363): the three reference variants share one work RAM and one graphics store,
whose contents after a write are named here. -/

namespace Sys2Proof.Machine

variable {c : Cfg} {k : Cartridge} {s : State}

/-! ## The stores of the reference variants -/

/-- The work RAM after a CPU write of the window. -/
def prgRamAfter (c : Cfg) (k : Cartridge) (a : Addr) (d : Byte) : Memory 8 :=
  if inPrgRam a then Memory.write k.prgRam (prgRamIndex c a) d else k.prgRam

/-- The graphics memory after a PPU write. -/
def chrAfter (k : Cartridge) (q : PpuAddr) (d : Byte) : Memory 8 :=
  if k.chrIsRam && decide (q.toNat < 0x2000) then Memory.write k.chr q.toNat d else k.chr

theorem inPrgRam_iff (a : Addr) : inPrgRam a = true ↔ 0x6000 ≤ a.toNat ∧ a.toNat < 0x8000 := by
  simp [inPrgRam]

theorem read_prgRamAfter (c : Cfg) (k : Cartridge) (a : Addr) (d : Byte) (b : Nat) :
    Memory.read (prgRamAfter c k a d) b =
      if 0x6000 ≤ a.toNat ∧ a.toNat < 0x8000 ∧ b = (a.toNat - 0x6000) % c.prgRamSize then d
      else Memory.read k.prgRam b := by
  unfold prgRamAfter
  by_cases h : 0x6000 ≤ a.toNat ∧ a.toNat < 0x8000
  · rw [if_pos ((inPrgRam_iff a).mpr h), Memory.read_write]
    exact if_congr ⟨fun hb => ⟨h.1, h.2, hb⟩, fun hb => hb.2.2⟩ rfl rfl
  · rw [if_neg (mt (inPrgRam_iff a).mp h), if_neg fun hb => h ⟨hb.1, hb.2.1⟩]

theorem read_chrAfter (k : Cartridge) (q : PpuAddr) (d : Byte) (b : Nat) : Memory.read (chrAfter k q d) b =
    if k.chrIsRam = true ∧ q.toNat < 0x2000 ∧ b = q.toNat then d else Memory.read k.chr b := by
  unfold chrAfter
  by_cases h : k.chrIsRam = true ∧ q.toNat < 0x2000
  · rw [if_pos (by simpa using h), Memory.read_write]
    exact if_congr ⟨fun hb => ⟨h.1, h.2, hb⟩, fun hb => hb.2.2⟩ rfl rfl
  · rw [if_neg (by simpa using h), if_neg fun hb => h ⟨hb.1, hb.2.1⟩]

theorem chrWrite_eq (k : Cartridge) (q : PpuAddr) (d : Byte) : chrWrite k q d = { k with chr := chrAfter k q d } := by
  unfold chrWrite chrAfter
  split <;> rfl

theorem nromCpuWrite_eq (c : Cfg) (k : Cartridge) (a : Addr) (d : Byte) :
    nromCpuWrite c k a d = { k with prgRam := prgRamAfter c k a d } := by
  unfold nromCpuWrite prgRamAfter prgRamWrite
  split <;> rfl

theorem not_bank_of_inPrgRam {a : Addr} (h : inPrgRam a = true) : ¬ 0x8000 ≤ a.toNat :=
  Nat.not_le.mpr ((inPrgRam_iff a).mp h).2

theorem uxromCpuWrite_eq {bank : Byte} (hm : k.mapper = .uxrom bank) (c : Cfg) (a : Addr) (d : Byte) :
    uxromCpuWrite c k a d =
      { k with prgRam := prgRamAfter c k a d, mapper := .uxrom (if 0x8000 ≤ a.toNat then d else bank) } := by
  unfold uxromCpuWrite prgRamAfter prgRamWrite
  split
  · next h => rw [if_neg (not_bank_of_inPrgRam h), ← hm]
  · split
    · rfl
    · rw [← hm]

theorem cnromCpuWrite_eq {bank : Byte} (hm : k.mapper = .cnrom bank) (c : Cfg) (a : Addr) (d : Byte) :
    cnromCpuWrite c k a d =
      { k with prgRam := prgRamAfter c k a d, mapper := .cnrom (if 0x8000 ≤ a.toNat then d else bank) } := by
  unfold cnromCpuWrite prgRamAfter prgRamWrite
  split
  · next h => rw [if_neg (not_bank_of_inPrgRam h), ← hm]
  · split
    · rfl
    · rw [← hm]

theorem uxromCpuRead_eq (c : Cfg) (k : Cartridge) (bank : Byte) (a : Addr) : uxromCpuRead c k bank a =
    if a.toNat < 0x6000 then none
    else if a.toNat < 0x8000 then some (Memory.read k.prgRam ((a.toNat - 0x6000) % c.prgRamSize))
    else if a.toNat < 0xC000 then
      some (Memory.read k.prgRom (bank.toNat % k.header.prgBanks.toNat * 16384 + (a.toNat - 0x8000)))
    else some (Memory.read k.prgRom ((k.header.prgBanks.toNat - 1) * 16384 + (a.toNat - 0xC000))) := by
  unfold uxromCpuRead windowRead switchedRom prgRamIndex
  rw [apply_ite (fun i => some (Memory.read k.prgRom i))]
  rfl

/-! ## The capabilities -/

/-- Settles O47. -/
theorem nromCapabilities : Obligations.NromCapabilities := by
  unfold Obligations.NromCapabilities
  intro a q d s k hk hm
  cases k
  cases hm
  exact ⟨capRead_some hk rfl,
    ⟨_, capWrite_some hk (congrArg some (nromCpuWrite_eq ..)), read_prgRamAfter _ _ a d⟩,
    capRead_some hk rfl, ⟨_, capWrite_some hk (congrArg some (chrWrite_eq ..)), read_chrAfter _ q d⟩⟩

/-- Settles O48. -/
theorem uxromCapabilities : Obligations.UxromCapabilities := by
  unfold Obligations.UxromCapabilities
  intro a q d bank s k hk hm
  cases k
  cases hm
  exact ⟨capRead_some hk (congrArg some (uxromCpuRead_eq ..)),
    ⟨_, capWrite_some hk (congrArg some (uxromCpuWrite_eq rfl ..)), read_prgRamAfter _ _ a d⟩,
    capRead_some hk rfl, ⟨_, capWrite_some hk (congrArg some (chrWrite_eq ..)), read_chrAfter _ q d⟩⟩

/-- Settles O49. -/
theorem cnromCapabilities : Obligations.CnromCapabilities := by
  unfold Obligations.CnromCapabilities
  intro a q d bank s k hk hm
  cases k
  cases hm
  exact ⟨capRead_some hk rfl,
    ⟨_, capWrite_some hk (congrArg some (cnromCpuWrite_eq rfl ..)), read_prgRamAfter _ _ a d⟩,
    capRead_some hk rfl, ⟨_, capWrite_some hk (congrArg some (chrWrite_eq ..)), read_chrAfter _ q d⟩⟩

/-! ## Mirroring and IRQ -/

theorem headerMode_eq (h : Header) : headerMode h =
    if h.fourScreen then .fourScreen else if h.mirroring = .vertical then .vertical else .horizontal := by
  unfold headerMode
  cases h.mirroring <;> rfl

theorem mapMirrorMode_reference (hk : k.reference) : mapMirrorMode c (some k) = headerMode k.header := by
  unfold mapMirrorMode
  cases hm : k.mapper with
  | further id regs => exact absurd hm (hk id regs)
  | _ => simp [hm]

theorem mapIrqPending_reference (hk : k.reference) : mapIrqPending c (some k) = false := by
  unfold mapIrqPending
  cases hm : k.mapper with
  | further id regs => exact absurd hm (hk id regs)
  | _ => simp [hm]

/-- Settles O50. -/
theorem mirrorModeAndIrqOfTheCartridge : Obligations.MirrorModeAndIrqOfTheCartridge := by
  unfold Obligations.MirrorModeAndIrqOfTheCartridge
  refine ⟨fun s => ⟨rfl, rfl⟩, fun c => ⟨rfl, rfl⟩,
    fun c k hk => ⟨(mapMirrorMode_reference hk).trans (headerMode_eq _), mapIrqPending_reference hk⟩,
    fun c k id regs v hm hv => ⟨fun f hf => ?_, fun hf => ?_, fun g hg => ?_, fun hg => ?_⟩, fun c k k' h => ?_⟩
  · simp [mapMirrorMode, hm, hv, hf]
  · rw [← headerMode_eq]
    simp [mapMirrorMode, hm, hv, hf]
  · simp [mapIrqPending, hm, hv, hg]
  · simp [mapIrqPending, hm, hv, hg]
  · simp only [mapIrqPending, h]

/-! ## An absent variant -/

theorem capRead_absent {f : Cartridge → Option (Option Byte)} (h : ∀ k, s.machine.cart = some k → f k = none) :
    capRead s f = .refused .variantNotInserted := by
  unfold capRead
  cases hk : s.machine.cart with
  | none => rfl
  | some k => simp [h k hk]

theorem capWrite_absent {f : Cartridge → Option Cartridge} (h : ∀ k, s.machine.cart = some k → f k = none) :
    capWrite s f = .refused .variantNotInserted := by
  unfold capWrite
  cases hk : s.machine.cart with
  | none => rfl
  | some k => simp [h k hk]

/-- Settles O51. -/
theorem capabilityOfAnAbsentVariantIsRefused : Obligations.CapabilityOfAnAbsentVariantIsRefused := by
  unfold Obligations.CapabilityOfAnAbsentVariantIsRefused
  intro a q d s
  refine ⟨fun h => ?_, fun h => ?_, fun h => ?_⟩
  · exact ⟨capRead_absent fun k hk => by simp [h k hk], capWrite_absent fun k hk => by simp [h k hk],
      capRead_absent fun k hk => by simp [h k hk], capWrite_absent fun k hk => by simp [h k hk]⟩
  · exact ⟨capRead_absent fun k hk => by simp [h k hk], capWrite_absent fun k hk => by simp [h k hk],
      capRead_absent fun k hk => by simp [h k hk], capWrite_absent fun k hk => by simp [h k hk]⟩
  · exact ⟨capRead_absent fun k hk => by simp [h k hk], capWrite_absent fun k hk => by simp [h k hk],
      capRead_absent fun k hk => by simp [h k hk], capWrite_absent fun k hk => by simp [h k hk]⟩

end Sys2Proof.Machine

/-! PROOF. The commands that replace the Machine, its cartridge or its transient state: `init`, `discard`, `insert_cart`,
`remove_cartridge`, `reset` (R330 to R334, R441 to R443, R510, R511). What `insert_cart` reads of an image is said once,
as the bytes of the image itself. -/

namespace Sys2Proof.Machine

variable {c : Cfg} {m : Mach} {image : List Byte} {off : Nat}

/-- Settles O53. -/
theorem initAndDiscard : Obligations.InitAndDiscard := by
  unfold Obligations.InitAndDiscard
  exact ⟨fun s => rfl, fun a => ⟨rfl, rfl⟩, fun s => rfl⟩

/-! ## The image -/

/-- The header is in the first eight bytes. -/
theorem parseHeader_take (image : List Byte) : parseHeader (image.take 16) = parseHeader image := by
  simp [parseHeader]

theorem take_four_eq_magic_iff (h : 16 ≤ image.length) : image.take 4 = magic ↔
    image.getD 0 0 = 0x4E ∧ image.getD 1 0 = 0x45 ∧ image.getD 2 0 = 0x53 ∧ image.getD 3 0 = 0x1A := by
  match image, h with
  | b0 :: b1 :: b2 :: b3 :: rest, _ => simp [magic]

theorem prgOffset_parseHeader (image : List Byte) :
    prgOffset (parseHeader image) = if (image.getD 6 0).getLsbD 2 then 528 else 16 := by
  unfold prgOffset parseHeader
  dsimp only
  split <;> rfl

theorem and_F0_or_shift (x y : Byte) : (x &&& 0xF0) ||| (y >>> 4) = x / 16 * 16 + y / 16 := by
  apply BitVec.eq_of_toNat_eq
  have hx := x.isLt
  have hy := y.isLt
  have hand : x.toNat &&& 240 = x.toNat / 16 * 16 := by
    have h := and_highMask x.toNat 4 4
    simp only [Nat.reducePow, Nat.reduceSub, Nat.reduceShiftLeft] at h
    omega
  have hor := Nat.shiftLeft_add_eq_or_of_lt (a := x.toNat / 16) (b := y.toNat / 16) (i := 4) (by omega)
  rw [Nat.shiftLeft_eq] at hor
  rw [BitVec.toNat_or, BitVec.toNat_and, BitVec.toNat_ushiftRight, Nat.shiftRight_eq_div_pow]
  refine (congrArg (· ||| y.toNat / 2 ^ 4) hand).trans (hor.symm.trans ?_)
  have h16 : (16 : Byte).toNat = 16 := rfl
  rw [BitVec.toNat_add, BitVec.toNat_mul, BitVec.toNat_udiv, BitVec.toNat_udiv, h16]
  omega

/-- The header as the image's bytes (R331). -/
theorem parseHeader_eq (image : List Byte) : parseHeader image =
    { mapperId := imageId image, prgBanks := image.getD 4 0, chrBanks := image.getD 5 0
      mirroring := if (image.getD 6 0).getLsbD 0 then .vertical else .horizontal
      battery := (image.getD 6 0).getLsbD 1, trainer := (image.getD 6 0).getLsbD 2
      fourScreen := (image.getD 6 0).getLsbD 3 } := by
  unfold parseHeader imageId
  simp only [and_F0_or_shift]

theorem neededLength_parseHeader (image : List Byte) : neededLength (parseHeader image) =
    (if (image.getD 6 0).getLsbD 2 then 528 else 16) + (image.getD 4 0).toNat * 16384 +
      (image.getD 5 0).toNat * 8192 := by
  rw [← prgOffset_parseHeader]
  rfl

theorem read_ofBytes_slice (image : List Byte) (o n i : Nat) :
    Memory.read (Memory.ofBytes 0 ((image.drop o).take n)) i = if i < n then image.getD (o + i) 0 else 0 := by
  rw [Memory.read_ofBytes, if_pos (Nat.zero_le i), Nat.sub_zero, List.getD_eq_getElem?_getD, List.getElem?_take]
  split
  · rw [List.getElem?_drop, List.getD_eq_getElem?_getD]
  · rfl

/-- The cartridge holds the image's bytes (R333). -/
theorem buildCartridge_builtFrom (hoff : off = prgOffset (parseHeader image)) (mp : Mapper) :
    BuiltFrom image off (buildCartridge (parseHeader image) image mp) := by
  have hprg : (parseHeader image).prgBanks = image.getD 4 0 := rfl
  have hchr : (parseHeader image).chrBanks = image.getD 5 0 := rfl
  refine ⟨parseHeader_eq image, fun i => ?_, fun i => ?_, rfl, fun i => rfl⟩
  · rw [hoff]
    exact read_ofBytes_slice image _ _ i
  · unfold buildCartridge
    dsimp only
    split
    · next h0 =>
      rw [if_neg]
      · rfl
      · rw [← hchr, h0]
        simp
    · rw [← hoff]
      exact read_ofBytes_slice image _ _ i

/-! ## `insert_cart` -/

/-- An image that fails one of the checks (R330). -/
theorem insertCart_malformed (c : Cfg) (m : Mach)
    (h : image.length < 16 ∨ ¬(image.getD 0 0 = 0x4E ∧ image.getD 1 0 = 0x45 ∧ image.getD 2 0 = 0x53 ∧
        image.getD 3 0 = 0x1A) ∨ image.getD 4 0 = 0 ∨
      image.length < (if (image.getD 6 0).getLsbD 2 then 528 else 16) + (image.getD 4 0).toNat * 16384 +
        (image.getD 5 0).toNat * 8192) : insertCart c image m = fail .malformedCartridge m := by
  unfold insertCart
  dsimp only
  rw [parseHeader_take, neededLength_parseHeader]
  by_cases h16 : image.length < 16
  · rw [if_pos h16]
  rw [if_neg h16]
  by_cases hmagic : image.take 4 = magic
  · rw [if_neg (not_not.mpr hmagic)]
    by_cases hprg : (parseHeader image).prgBanks = 0
    · rw [if_pos hprg]
    · rw [if_neg hprg, if_pos]
      have hbytes := (take_four_eq_magic_iff (Nat.le_of_not_lt h16)).mp hmagic
      exact ((h.resolve_left h16).resolve_left (not_not.mpr hbytes)).resolve_left hprg
  · rw [if_pos hmagic]

/-- A well-formed image passes the checks (R330). -/
theorem insertCart_wellFormed (h : ImageWellFormed image off) (c : Cfg) (m : Mach) : insertCart c image m =
    if c.supported (imageId image) then
      (initialMapper c (imageId image)).elim (fail .unsupportedMapper m)
        fun mp => (.success, m.setCart (some (buildCartridge (parseHeader image) image mp)))
    else fail .unsupportedMapper m := by
  obtain ⟨h16, hb0, hb1, hb2, hb3, hprg, hoff, hlen⟩ := h
  have hid : (parseHeader image).mapperId = imageId image := congrArg Header.mapperId (parseHeader_eq image)
  have hbanks : (parseHeader image).prgBanks ≠ 0 := hprg
  unfold insertCart
  dsimp only
  rw [parseHeader_take, neededLength_parseHeader, ← hoff, if_neg (Nat.not_lt.mpr h16),
    if_neg (not_not.mpr ((take_four_eq_magic_iff h16).mpr ⟨hb0, hb1, hb2, hb3⟩)), if_neg hbanks,
    if_neg (Nat.not_lt.mpr hlen), hid]
  cases initialMapper c (imageId image) <;> rfl

theorem insertCart_success {mp : Mapper} (h : ImageWellFormed image off) (hs : c.supported (imageId image) = true)
    (hi : initialMapper c (imageId image) = some mp) : insertCart c image m =
      (.success, { m with cart := some (buildCartridge (parseHeader image) image mp) }) := by
  rw [insertCart_wellFormed h, if_pos hs, hi]
  rfl

theorem insertCart_unsupported (h : ImageWellFormed image off) (hs : c.supported (imageId image) = false) :
    insertCart c image m = (.failure .unsupportedMapper, m) := by
  rw [insertCart_wellFormed h, if_neg (by simp [hs])]
  rfl

/-- An insertion fails in one of two ways, or succeeds for a supported id. -/
theorem insertCart_cases (c : Cfg) (image : List Byte) (m : Mach) :
    insertCart c image m = (.failure .malformedCartridge, m) ∨ insertCart c image m = (.failure .unsupportedMapper, m) ∨
    c.supported (parseHeader (image.take 16)).mapperId = true ∧ (insertCart c image m).1 = .success := by
  unfold insertCart fail
  dsimp only
  split_ifs with h16 hmagic hprg hlen hs
  · exact .inl rfl
  · exact .inl rfl
  · exact .inl rfl
  · exact .inl rfl
  · cases initialMapper c (parseHeader (image.take 16)).mapperId with
    | none => exact .inr (.inl rfl)
    | some mp => exact .inr (.inr ⟨hs, rfl⟩)
  · exact .inr (.inl rfl)

theorem initialMapper_reference (c : Cfg) {id : Byte} (h : id = 0 ∨ id = 2 ∨ id = 3) :
    initialMapper c id = some (if id = 0 then .nrom else if id = 2 then .uxrom 0 else .cnrom 0) := by
  rcases h with rfl | rfl | rfl <;> rfl

theorem initialMapper_further {id : Byte} {v : VariantSpec} (h0 : id ≠ 0) (h2 : id ≠ 2) (h3 : id ≠ 3)
    (hv : c.furtherVariant id = some v) : initialMapper c id = some (.further id v.init) := by
  unfold initialMapper
  rw [if_neg h0, if_neg h2, if_neg h3, hv]

theorem supported_reference {id : Byte} (h : id = 0 ∨ id = 2 ∨ id = 3) : Config.cfg.supported id = true := by
  rcases h with rfl | rfl | rfl <;> rfl

theorem exec_hostInsertCart {s : State} {r : Result × Mach} (h : insertCart Config.cfg image s.machine = r) :
    exec (.hostInsertCart image) s = .next (s.answer r.1 r.2) := by
  rw [← h]
  rfl

/-- Settles O54. -/
theorem insertCartBuildsTheCartridge : Obligations.InsertCartBuildsTheCartridge := by
  unfold Obligations.InsertCartBuildsTheCartridge
  intro image off h
  have hbuilt := buildCartridge_builtFrom (off := off) (image := image)
    (by rw [prgOffset_parseHeader]; exact h.2.2.2.2.2.2.1)
  refine ⟨fun s hid => ⟨_, ?_, hbuilt _, rfl⟩, fun c m v h0 h2 h3 hs hv => ⟨_, ?_, hbuilt _, rfl⟩⟩
  · exact exec_hostInsertCart (insertCart_success h (supported_reference hid) (initialMapper_reference _ hid))
  · exact insertCart_success h hs (initialMapper_further h0 h2 h3 hv)

/-- Settles O55. -/
theorem insertCartFailsWithoutEffect : Obligations.InsertCartFailsWithoutEffect := by
  unfold Obligations.InsertCartFailsWithoutEffect
  refine ⟨fun image s => ?_, fun c image m hs => ?_, fun c image off m h hs => insertCart_unsupported h hs,
    fun image off s h hs => ?_, fun c image m hfail => ?_⟩
  · intro b h
    exact exec_hostInsertCart (insertCart_malformed Config.cfg s.machine h)
  · rcases insertCart_cases c image m with e | e | ⟨hsup, -⟩
    · rw [e]
      exact ⟨rfl, .inl rfl⟩
    · rw [e]
      exact ⟨rfl, .inr rfl⟩
    · rw [hs] at hsup
      cases hsup
  · exact exec_hostInsertCart (insertCart_unsupported h hs)
  · rcases insertCart_cases c image m with e | e | ⟨-, hok⟩
    · rw [e]
    · rw [e]
    · exact absurd hok hfail

/-! ## `remove_cartridge` -/

theorem busRead_window {a : Addr} (h : 0x4020 ≤ a.toNat) (m : Mach) : busRead c a m = latchRead (cartRead c a m) := by
  have e : cpuReadOp a = .cart := by
    rw [cpuReadOp_ranges, if_neg (by omega), if_neg (by omega), if_neg (by omega), if_neg (by omega),
      if_neg (by omega), if_neg (by omega), if_neg (by omega)]
  simp [busRead, readTarget, e]

theorem busWrite_window {a : Addr} (h : 0x4020 ≤ a.toNat) (d : Byte) (m : Mach) :
    busWrite c a d m = cartWrite c a d (m.setOpenBus d) := by
  have e : cpuWriteOp a = .cart := by
    rw [cpuWriteOp_ranges, if_neg (by omega), if_neg (by omega), if_neg (by omega), if_neg (by omega),
      if_neg (by omega), if_neg (by omega), if_neg (by omega)]
  simp [busWrite, writeTarget, e]

/-- Settles O56. -/
theorem removeCartridgeLeavesOpenBus : Obligations.RemoveCartridgeLeavesOpenBus := by
  unfold Obligations.RemoveCartridgeLeavesOpenBus
  refine fun s => ⟨_, rfl, rfl, fun c a d ha => ⟨?_, ?_⟩, fun c a d ha => ⟨?_, ?_⟩⟩
  · rw [busRead_window ha, cartRead_none rfl]
    rfl
  · rw [busWrite_window ha, cartWrite_none rfl]
    rfl
  · rw [ppuRead_pattern ha, patternRead_none rfl]
  · rw [ppuWrite_pattern ha, patternWrite_none rfl]

/-! ## `reset` -/

theorem resetMapper_eq (c : Cfg) (mp : Mapper) : resetMapper c mp = match mp with
    | .nrom => .nrom
    | .uxrom _ => .uxrom 0
    | .cnrom _ => .cnrom 0
    | .further id regs => ((c.furtherVariant id).map (fun v => .further id v.init)).getD (.further id regs) := by
  cases mp with
  | further id regs =>
    simp only [resetMapper]
    cases c.furtherVariant id <;> rfl
  | _ => rfl

/-- Settles O57. -/
theorem warmResetClearsThenRunsTheSequence : Obligations.WarmResetClearsThenRunsTheSequence := by
  unfold Obligations.WarmResetClearsThenRunsTheSequence
  intro s
  have h := runProg_frame Config.cfg (Config.cfg.core.reset s.machine.core) (resetClear Config.cfg s.machine)
  refine ⟨resetClear Config.cfg s.machine, _, ?_, rfl, ?_, runProg_cycles_pos .., h.scanline, h.cycle, h.frame,
    h.dmaActive, h.fb, h.live0, h.live1⟩
  · cases hk : s.machine.cart with
    | none =>
      simp only [resetClear, hk]
      rfl
    | some k =>
      simp only [resetClear, hk, Option.map_some, resetCart, resetMapper_eq]
      rfl
  · refine congrArg (answerMach s) ?_
    unfold warmReset
    simp only [h.cpu]
    rfl

end Sys2Proof.Machine

/-! PROOF. The keys, the queries and the snapshots (R420 to R426, R444 to R447): a key changes one bit of the 16-bit pad
mask, and a slot keeps what was saved in it until it is saved to again. -/

namespace Sys2Proof.Machine

variable {s t : State}

/-! ## Keys -/

theorem getLsbD_one_shiftLeft {i j : Nat} (hj : j < 8) : (1#8 <<< i).getLsbD j = decide (j = i) := by
  rw [Bool.eq_iff_iff]
  simp [hj]
  omega

theorem getLsbD_setBit (b : Byte) {i j : Nat} (v : Bool) (hj : j < 8) :
    (setBit b i v).getLsbD j = if j = i then v else b.getLsbD j := by
  have hmask := getLsbD_one_shiftLeft (i := i) hj
  unfold setBit
  cases v with
  | false =>
    rw [if_neg Bool.false_ne_true, BitVec.getLsbD_and, BitVec.getLsbD_not, hmask, decide_eq_true hj]
    by_cases h : j = i <;> simp [h]
  | true =>
    rw [if_pos rfl, BitVec.getLsbD_or, hmask]
    by_cases h : j = i <;> simp [h]

/-- Bit `j` of the pad mask `l1 ++ l0`. -/
theorem getLsbD_mask (l1 l0 : Byte) (j : Nat) :
    (l1 ++ l0).getLsbD j = if j < 8 then l0.getLsbD j else l1.getLsbD (j - 8) := by
  exact BitVec.getLsbD_append

/-- A key command: one bit of the pad mask takes `v`, and nothing else changes. -/
theorem setKey_mask (code : Byte) (v : Bool) (m : Mach) : ∃ l0 l1 : Byte,
    setKey code v m = { m with pad0 := { m.pad0 with live := l0 }, pad1 := { m.pad1 with live := l1 } } ∧
    ∀ j, j < 16 → (l1 ++ l0).getLsbD j = if j = code.toNat then v else (m.pad1.live ++ m.pad0.live).getLsbD j := by
  by_cases h8 : code.toNat < 8
  · refine ⟨setBit m.pad0.live code.toNat v, m.pad1.live, by simp [setKey, keyPair, h8]; rfl, fun j _ => ?_⟩
    rw [getLsbD_mask, getLsbD_mask]
    by_cases hj : j < 8
    · rw [if_pos hj, if_pos hj, getLsbD_setBit _ _ hj]
    · rw [if_neg hj, if_neg hj, if_neg (by omega)]
  · by_cases h16 : code.toNat < 16
    · refine ⟨m.pad0.live, setBit m.pad1.live (code.toNat - 8) v, by simp [setKey, keyPair, h8, h16]; rfl,
        fun j hj16 => ?_⟩
      rw [getLsbD_mask, getLsbD_mask]
      by_cases hj : j < 8
      · rw [if_pos hj, if_pos hj, if_neg (by omega)]
      · rw [if_neg hj, if_neg hj, getLsbD_setBit _ _ (by omega)]
        exact if_congr (by omega) rfl rfl
    · refine ⟨m.pad0.live, m.pad1.live, by simp [setKey, keyPair, h8, h16], fun j hj16 => ?_⟩
      rw [if_neg (by omega)]

theorem ite_eq_decide_or {p : Prop} [Decidable p] (b : Bool) : (if p then true else b) = (decide p || b) := by
  by_cases h : p <;> simp [h]

theorem ite_eq_not_decide_and {p : Prop} [Decidable p] (b : Bool) : (if p then false else b) = (!decide p && b) := by
  by_cases h : p <;> simp [h]

theorem padMask_toNat (m : Mach) : (padMask m).toNat = m.pad1.live.toNat * 256 + m.pad0.live.toNat :=
  append_toNat m.pad1.live m.pad0.live

theorem displayInfo_palette (c : Cfg) (m : Mach) (i : Color) :
    (displayInfo c m).palette[i.toNat]? = some (c.paletteRgb i) := by
  have hi := i.isLt
  simp [displayInfo, hi]

/-- Settles O58. -/
theorem keysChangeOneButtonAndQueriesNothing : Obligations.KeysChangeOneButtonAndQueriesNothing := by
  unfold Obligations.KeysChangeOneButtonAndQueriesNothing
  refine ⟨fun code s => ⟨?_, ?_⟩, fun s => ⟨⟨_, padMask_toNat s.machine, rfl⟩,
    ⟨displayInfo Config.cfg s.machine, rfl, rfl, rfl, ?_, displayInfo_palette Config.cfg s.machine, rfl⟩⟩⟩
  · obtain ⟨l0, l1, e, hbits⟩ := setKey_mask code true s.machine
    exact ⟨l0, l1, congrArg (answerMach s) e, fun j hj => (hbits j hj).trans (ite_eq_decide_or _)⟩
  · obtain ⟨l0, l1, e, hbits⟩ := setKey_mask code false s.machine
    exact ⟨l0, l1, congrArg (answerMach s) e, fun j hj => (hbits j hj).trans (ite_eq_not_decide_and _)⟩
  · simp [displayInfo]

/-! ## Snapshots -/

theorem findSnapshot_storeSnapshot (n slot : Nat) (x : Snapshot) (l : List (Nat × Snapshot)) :
    findSnapshot n (storeSnapshot slot x l) = if n = slot then some x else findSnapshot n l := by
  induction l with
  | nil => rfl
  | cons e l ih =>
    obtain ⟨k, y⟩ := e
    rcases Nat.lt_trichotomy slot k with hlt | rfl | hgt
    · simp only [storeSnapshot, hlt, if_true, findSnapshot]
    · simp only [storeSnapshot, Nat.lt_irrefl, if_false, if_true, findSnapshot]
      split_ifs <;> rfl
    · simp only [storeSnapshot, Nat.lt_asymm hgt, Nat.ne_of_gt hgt, if_false, findSnapshot, ih]
      by_cases hk : n = k
      · rw [if_pos hk, if_pos hk, if_neg (by omega)]
      · rw [if_neg hk, if_neg hk]

theorem loadSnapshot_found {slot : Byte} {x : Snapshot} (h : findSnapshot slot.toNat s.snapshots = some x) :
    exec (.hostLoadSnapshot Config.cfg.snapshotVersion slot) s = .next { s with
      result := .success, machine := x.image } := by
  show execHostLoadSnapshot _ _ _ = _
  unfold execHostLoadSnapshot
  rw [if_pos rfl, h]
  rfl

theorem loadSnapshot_empty {slot : Byte} (h : findSnapshot slot.toNat s.snapshots = none) :
    exec (.hostLoadSnapshot Config.cfg.snapshotVersion slot) s = .refused .nothingSaved := by
  show execHostLoadSnapshot _ _ _ = _
  unfold execHostLoadSnapshot
  rw [if_pos rfl, h]

theorem loadSnapshot_mismatch {version : Nat} {slot : Byte} (h : version ≠ Config.cfg.snapshotVersion) :
    exec (.hostLoadSnapshot version slot) s = .next { s with result := .failure .snapshotVersionMismatch } :=
  if_neg h

/-- Settles O59. -/
theorem snapshotCommands : Obligations.SnapshotCommands := by
  unfold Obligations.SnapshotCommands
  exact ⟨fun slot s => ⟨_, rfl, fun n => findSnapshot_storeSnapshot ..⟩, fun slot s x => loadSnapshot_found,
    fun slot s => loadSnapshot_empty, fun version slot s => loadSnapshot_mismatch⟩

/-! ## What a slot keeps -/

/-- Only a save to a slot changes what the slot holds. -/
theorem exec_findSnapshot {i : Instr} {slot : Byte} (hi : i ≠ .hostSaveSnapshot slot) (e : exec i s = .next t) :
    findSnapshot slot.toNat t.snapshots = findSnapshot slot.toNat s.snapshots := by
  cases i with
  | hostSaveSnapshot n =>
    cases e
    have hn : slot.toNat ≠ n.toNat := fun h => hi (by rw [BitVec.eq_of_toNat_eq h])
    exact (findSnapshot_storeSnapshot ..).trans (if_neg hn)
  | nromCpuRead | nromPpuRead | uxromCpuRead | uxromPpuRead | cnromCpuRead | cnromPpuRead =>
    rw [capRead_answers e]
    rfl
  | nromCpuWrite | nromPpuWrite | uxromCpuWrite | uxromPpuWrite | cnromCpuWrite | cnromPpuWrite =>
    rw [capWrite_answers e]
    rfl
  | hostLoadSnapshot =>
    rw [loadSnapshot_answers e]
    rfl
  | _ => cases e; rfl

/-- A step of a run of operations that completes. -/
theorem foldl_exec_cons {step : Option State → Instr → Option State} {i : Instr} {is : List Instr}
    (hnone : ∀ j, step none j = none) (h : (i :: is).foldl step (some s) = some t) :
    ∃ s', step (some s) i = some s' ∧ is.foldl step (some s') = some t := by
  have hfail : ∀ l : List Instr, l.foldl step none = none := fun l => by
    induction l with
    | nil => rfl
    | cons j l ih => rw [List.foldl_cons, hnone, ih]
  rw [List.foldl_cons] at h
  cases hs : step (some s) i with
  | none => rw [hs, hfail] at h; cases h
  | some s' => exact ⟨s', rfl, hs ▸ h⟩

/-- One operation of a run. -/
def execStep (o : Option State) (i : Instr) : Option State :=
  o.bind (fun x => match exec i x with | .next y => some y | .fault _ => none | .refused _ => none)

theorem execStep_some {i : Instr} (h : execStep (some s) i = some t) : exec i s = .next t := by
  simp only [execStep, Option.bind_some] at h
  split at h
  · next e => cases h; exact e
  · cases h
  · cases h

theorem run_findSnapshot {slot : Byte} {is : List Instr} (hi : Instr.hostSaveSnapshot slot ∉ is)
    (h : is.foldl execStep (some s) = some t) :
    findSnapshot slot.toNat t.snapshots = findSnapshot slot.toNat s.snapshots := by
  induction is generalizing s with
  | nil => cases h; rfl
  | cons i is ih =>
    obtain ⟨hne, his⟩ := not_or.mp (mt List.mem_cons.mpr hi)
    obtain ⟨s', hs, hrest⟩ := foldl_exec_cons (fun _ => rfl) h
    rw [ih his hrest, exec_findSnapshot (Ne.symm hne) (execStep_some hs)]

/-- Settles O60, by induction on the operations between the save and the load. -/
theorem snapshotRoundTripRestoresTheMachine : Obligations.SnapshotRoundTripRestoresTheMachine := by
  unfold Obligations.SnapshotRoundTripRestoresTheMachine
  intro slot s s1 s2 is hsave hi hrun
  have hfound : findSnapshot slot.toNat s1.snapshots =
      some { version := Config.cfg.snapshotVersion, image := s.machine } := by
    cases hsave
    exact (findSnapshot_storeSnapshot ..).trans (if_pos rfl)
  have hkept := run_findSnapshot (slot := slot) hi hrun
  exact ⟨_, loadSnapshot_found (hkept.trans hfound), rfl, rfl⟩

end Sys2Proof.Machine
